-- ==== Sys2Proof/Word.lean ====
section
/-! DEFINITION. The units of data of AESC (00_scope.md R6 to R8): bytes, 32-bit words, window offsets, and
the 16-byte block as four columns of four bytes. -/

namespace Sys2Proof

/-- "A byte is 8 bits" (R6). -/
abbrev Byte := BitVec 8

/-- "A word is 32 bits" (R6). -/
abbrev Word := BitVec 32

/-- An offset in the register window of 2^18 bytes (10_state.md R23). -/
abbrev Offset := BitVec 18

/-- One column of the 4x4 byte matrix of R8: its bytes in rows 0 to 3. It is also the byte view
`[a0, a1, a2, a3]` of one 32-bit word (R7). -/
structure Column where
  a0 : Byte
  a1 : Byte
  a2 : Byte
  a3 : Byte
deriving DecidableEq, Repr

/-- A block: 16 bytes, byte `r + 4*c` in row r of column c (R8). -/
structure Block where
  c0 : Column
  c1 : Column
  c2 : Column
  c3 : Column
deriving DecidableEq, Repr

/-- The 44 words of an expanded key schedule (00_scope.md R5). -/
abbrev Schedule := Vector Word 44

end Sys2Proof
end

