-- ==== Sys2Proof/Syntax.lean ====
section
/-! DEFINITION. The commands of AESC (30_encoding.md R101, R109), one constructor for each row of the opcode table. -/

namespace Sys2Proof

/-- A command. Only ADDROUNDKEY and GFMUL have operands of their own (R109); every other operand is implicit
(R108). -/
inductive Instr where
  | nop
  | setkey
  | encBlock
  | decBlock
  | cbcEnc
  | cbcDec
  | ctrEnc
  | ctrDec
  | pad
  | unpad
  | ctrInc
  /-- `GFMUL a, b`: the fields A and B are any bytes (R105). -/
  | gfmul (a b : Byte)
  | subBytes
  | invSubBytes
  | shiftRows
  | invShiftRows
  | mixColumns
  | invMixColumns
  /-- `ADDROUNDKEY rnd`: the 4-bit field RND names a round key in 0..10 (R104). -/
  | addRoundKey (rnd : BitVec 4)
deriving DecidableEq, Repr

end Sys2Proof
end

