-- ==== Sys2Proof/WellFormed.lean ====
section
/-! DEFINITION. Which commands are well formed: the ones some legal command word stands for (30_encoding.md R104,
R106). -/

namespace Sys2Proof

/-- RND names one of the 11 round keys (R104): the one operand check there is. -/
def rndInRange (rnd : BitVec 4) : Bool := rnd.toNat ≤ 10

/-- A command is well formed when its operands are in the range R104 and R105 give them. -/
def Instr.wellFormed : Instr → Bool
  | .nop => true
  | .setkey => true
  | .encBlock => true
  | .decBlock => true
  | .cbcEnc => true
  | .cbcDec => true
  | .ctrEnc => true
  | .ctrDec => true
  | .pad => true
  | .unpad => true
  | .ctrInc => true
  | .gfmul _ _ => true
  | .subBytes => true
  | .invSubBytes => true
  | .shiftRows => true
  | .invShiftRows => true
  | .mixColumns => true
  | .invMixColumns => true
  | .addRoundKey rnd => rndInRange rnd

end Sys2Proof
end

