-- ==== Sys2Proof/Decode.lean ====
section
/-! DEFINITION. The decoder of 30_encoding.md R106, total over all 2^32 command words and rejecting by name, and the
encoder of R109. -/

namespace Sys2Proof

/-- Why a command word is Illegal. The machine makes no difference between them (40_dispatch.md R137). -/
inductive DecodeError where
  /-- OP is one of 0x0C..0x0F, 0x17..0x1F (R102). -/
  | reservedOpcode
  /-- One of the bits [7:5], [15:12] is set (R103). -/
  | reservedBits
  /-- RND in 11..15 for ADDROUNDKEY (R104). -/
  | rndOutOfRange
  /-- RND is not 0 for another opcode (R104). -/
  | rndNotZero
  /-- A or B is not 0 for an opcode other than GFMUL (R105). -/
  | operandNotZero
deriving DecidableEq, Repr

/-- Field OP, bits [4:0] (R100). -/
def fieldOp (w : Word) : BitVec 5 := w.extractLsb' 0 5

/-- Field RND, bits [11:8] (R100). -/
def fieldRnd (w : Word) : BitVec 4 := w.extractLsb' 8 4

/-- Field B, bits [23:16] (R100). -/
def fieldB (w : Word) : Byte := w.extractLsb' 16 8

/-- Field A, bits [31:24] (R100). -/
def fieldA (w : Word) : Byte := w.extractLsb' 24 8

/-- The reserved bits [7:5] and [15:12] are all 0 (R103). -/
def reservedBitsZero (w : Word) : Bool := w.extractLsb' 5 3 == 0 && w.extractLsb' 12 4 == 0

/-- The opcode map (R101). `none` for the reserved opcodes (R102). -/
def instrOfOp (op : BitVec 5) (rnd : BitVec 4) (a b : Byte) : Option Instr :=
  match op.toNat with
  | 0x00 => some .nop
  | 0x01 => some .setkey
  | 0x02 => some .encBlock
  | 0x03 => some .decBlock
  | 0x04 => some .cbcEnc
  | 0x05 => some .cbcDec
  | 0x06 => some .ctrEnc
  | 0x07 => some .ctrDec
  | 0x08 => some .pad
  | 0x09 => some .unpad
  | 0x0A => some .ctrInc
  | 0x0B => some (.gfmul a b)
  | 0x10 => some .subBytes
  | 0x11 => some .invSubBytes
  | 0x12 => some .shiftRows
  | 0x13 => some .invShiftRows
  | 0x14 => some .mixColumns
  | 0x15 => some .invMixColumns
  | 0x16 => some (.addRoundKey rnd)
  | _ => none

/-- `decode` of R106, its checks in the order written there. -/
def decode (w : Word) : Except DecodeError Instr :=
  match instrOfOp (fieldOp w) (fieldRnd w) (fieldA w) (fieldB w) with
  | none => .error .reservedOpcode
  | some i =>
    if reservedBitsZero w = false then .error .reservedBits
    else if fieldOp w = 0x16 ∧ 10 < (fieldRnd w).toNat then .error .rndOutOfRange
    else if fieldOp w ≠ 0x16 ∧ fieldRnd w ≠ 0 then .error .rndNotZero
    else if fieldOp w ≠ 0x0B ∧ (fieldA w ≠ 0 ∨ fieldB w ≠ 0) then .error .operandNotZero
    else .ok i

/-- The OP value of each command (R101). -/
def opcode : Instr → BitVec 5
  | .nop => 0x00
  | .setkey => 0x01
  | .encBlock => 0x02
  | .decBlock => 0x03
  | .cbcEnc => 0x04
  | .cbcDec => 0x05
  | .ctrEnc => 0x06
  | .ctrDec => 0x07
  | .pad => 0x08
  | .unpad => 0x09
  | .ctrInc => 0x0A
  | .gfmul _ _ => 0x0B
  | .subBytes => 0x10
  | .invSubBytes => 0x11
  | .shiftRows => 0x12
  | .invShiftRows => 0x13
  | .mixColumns => 0x14
  | .invMixColumns => 0x15
  | .addRoundKey _ => 0x16

/-- One command word from its four fields: `OP | rnd<<8 | b<<16 | a<<24` (R109). -/
def encodeFields (op : BitVec 5) (rnd : BitVec 4) (a b : Byte) : Word :=
  op.setWidth 32 ||| (rnd.setWidth 32 <<< 8) ||| (b.setWidth 32 <<< 16) ||| (a.setWidth 32 <<< 24)

/-- `enc` of R109: the command word of a command, "with absent operands 0". -/
def encode (i : Instr) : Word :=
  match i with
  | .gfmul a b => encodeFields (opcode i) 0 a b
  | .addRoundKey rnd => encodeFields (opcode i) rnd 0 0
  | .nop | .setkey | .encBlock | .decBlock | .cbcEnc | .cbcDec | .ctrEnc | .ctrDec | .pad | .unpad | .ctrInc
  | .subBytes | .invSubBytes | .shiftRows | .invShiftRows | .mixColumns | .invMixColumns =>
    encodeFields (opcode i) 0 0 0

/-- A number of the opcode table as a command word: the table's bits, every bit from `nbits` on being 0. The command
is the one 32-bit word that a bus write delivers (R100), so no byte order enters. -/
def tableWord (nbits w : Nat) : Word := BitVec.ofNat 32 (w % 2 ^ nbits)

/-- What the decoder reads from a word numbered as the opcode table numbers it. -/
def decodeTableWord (nbits w : Nat) : Option Instr :=
  match decode (tableWord nbits w) with
  | .ok i => some i
  | .error _ => none

end Sys2Proof
end

