-- ==== Sys2Proof/Config.lean ====
section
/-! DEFINITION. What an implementation or a platform fixes (00_scope.md R5), and the free values of the spec's
draws (70_reset_and_hazards.md R330, R334). -/

namespace Sys2Proof

/-- The parameters of R5 that the spec leaves to the implementation or the platform. A value of this type stands
in the machine's state so that a claim holds for every choice of them; no step changes it (log entry 4). -/
structure Config where
  /-- `MAX_MSG_BYTES`, the size in bytes of each of DIN and DOUT. -/
  maxMsgBytes : Nat
  /-- `AESC_BASE`, the base of the register window in the platform's address map. -/
  aescBase : Nat
  /-- `IRQ_LINE`, the platform interrupt input that `irq` drives. -/
  irqLine : Nat
deriving DecidableEq, Repr

/-- "a multiple of 16 with 32 <= `MAX_MSG_BYTES` <= 65536" (R5). -/
abbrev Config.Legal (c : Config) : Prop :=
  c.maxMsgBytes % 16 = 0 ∧ 32 ≤ c.maxMsgBytes ∧ c.maxMsgBytes ≤ 65536

/-- The byte that a RAM location with no value gives in event number `n`: a draw, under no law (R330).
The second argument is the location's offset in the register window. A free value (log entry 3). -/
opaque Config.drawByte : Nat → Nat → Byte

/-- The word that an unspecified 32-bit read gives in event number `n`: a draw, under no law (R330, R334).
The second argument is the word's offset in the register window. A free value (log entry 3). -/
opaque Config.drawWord : Nat → Nat → Word

end Sys2Proof
end

