-- ==== Sys2Proof/Machine/State.lean ====
section
/-! DEFINITION. The state of AESC (10_state.md R47), as plain data, and its value after reset
(70_reset_and_hazards.md R330). -/

namespace Sys2Proof.Machine

/-- The engine phase (10_state.md R41). -/
inductive Phase where
  | idle
  | busy
deriving DecidableEq, Repr

/-- One step of the total order of AESC's events (20_memory.md R80, 40_dispatch.md R130). -/
inductive Event where
  /-- The host reads the word at a bus address. -/
  | busRead (addr : Nat)
  /-- The host writes a word at a bus address. -/
  | busWrite (addr : Nat) (v : Word)
  /-- The engine's turn: it completes the running command, if there is one (40_dispatch.md R133). -/
  | engine
  /-- Reset (70_reset_and_hazards.md R330). -/
  | reset
deriving DecidableEq, Repr

/-- What a window offset selects (10_state.md R23). -/
inductive Target where
  | id
  | caps
  | cmd
  | status
  | ctrl
  | keyLen
  | len
  | outLen
  | result
  /-- KEYj -/
  | key (j : Fin 4)
  /-- IVj -/
  | iv (j : Fin 4)
  /-- RKi -/
  | rk (i : Fin 44)
  /-- word j of the DIN window -/
  | din (j : Nat)
  /-- word j of the DOUT window -/
  | dout (j : Nat)
  | unmapped
deriving DecidableEq, Repr

/-- The errors a command can complete with (60_exceptions.md R290). -/
inductive CmdError where
  | invalidKeyLength
  | invalidLength
  | invalidPadding
  | noKey
  | capacityExceeded
  | illegalCommand
deriving DecidableEq, Repr

/-- A RAM of bytes (DIN or DOUT): cells of a byte index and its byte, indexes strictly rising. An index that is not
listed holds no value (R330: "a model holds no value"). -/
abbrev Memory := List Host.Cell

/-- The state of AESC (R47), its parameters, and the model's own fields. -/
structure State where
  /-- The parameters of 00_scope.md R5, no state: no step changes them. -/
  config : Config
  /-- The engine phase, seen as STATUS.BUSY (R28, R41). -/
  phase : Phase
  /-- CMDQ, the command word accepted at issue; read only while BUSY (R41). -/
  cmdq : Word
  /-- STATUS.DONE (R29). -/
  done : Bool
  /-- STATUS.KEY_VALID (R30). -/
  keyValid : Bool
  /-- STATUS.BUSY_WR (R31). -/
  busyWr : Bool
  /-- STATUS.ERR (R32). -/
  err : BitVec 4
  /-- CTRL.IE (R33). -/
  ie : Bool
  /-- KEY_LEN[7:0] (R34). -/
  keyLen : Byte
  /-- LEN (R35). -/
  len : Word
  /-- OUT_LEN (R36). -/
  outLen : Word
  /-- RESULT[7:0] (R37). -/
  result : Byte
  /-- KEY0..KEY3 as 16 bytes: column j is the bytes of KEYj (R38, R47). -/
  key : Block
  /-- IV0..IV3 as 16 bytes: column j is the bytes of IVj (R39, R47). -/
  iv : Block
  /-- RK0..RK43; `none` while the words hold no value, after reset (R40, R330). They are only ever written all at
  once (R40). -/
  rk : Option Schedule
  /-- DIN (R42). -/
  din : Memory
  /-- DOUT (R43). -/
  dout : Memory
  /-- The model's own: the word the host's last read returned (log entry 7). -/
  readData : Word
  /-- The model's own: the coming events in their order; when none is left it is the engine's turn (log entry 6). -/
  events : List Event
  /-- The model's own: the number of the event under way, the counter of the draws (log entry 3). -/
  eventNo : Nat
deriving DecidableEq, Repr

/-- AESC never stops: "AESC has no traps" and "No host access ever faults" (60_exceptions.md R295), and every issued
command completes (40_dispatch.md R132). So there is no fault. -/
inductive Fault
deriving DecidableEq, Repr

/-- Why the model gives an instruction no meaning. -/
inductive Refusal where
  /-- Raised by `exec` for an instruction without a meaning yet: safe, since the model stops where the hardware goes
  on. No arm raises it now. -/
  | notModelled (mnemonic : String)
deriving DecidableEq, Repr

/-- The default parameters: `MAX_MSG_BYTES` "Default 4096" (00_scope.md R5). `AESC_BASE` and `IRQ_LINE` are OPEN;
0 is a DESIGN CHOICE (log entry 5). -/
def defaultConfig : Config := ⟨4096, 0, 0⟩

/-- The block of 16 zero bytes. -/
def zeroBlock : Block := ⟨⟨0, 0, 0, 0⟩, ⟨0, 0, 0, 0⟩, ⟨0, 0, 0, 0⟩, ⟨0, 0, 0, 0⟩⟩

/-- The machine right after reset (R330). CMDQ is unspecified there: 0 is a DESIGN CHOICE (log entry 1). RK, DIN and
DOUT hold no value. The last three fields are the model's own. -/
def State.reset : State where
  config := defaultConfig
  phase := .idle
  cmdq := 0
  done := false
  keyValid := false
  busyWr := false
  err := 0
  ie := false
  keyLen := 16
  len := 0
  outLen := 0
  result := 0
  key := zeroBlock
  iv := zeroBlock
  rk := none
  din := []
  dout := []
  readData := 0
  events := []
  eventNo := 0

end Sys2Proof.Machine
end

