-- ==== Sys2Proof/Machine/Operands.lean ====
section
/-! DEFINITION. The byte order of words and blocks (00_scope.md R7, R8; 20_memory.md R73), the address decoding of the
register window (10_state.md R23, 20_memory.md R71), and the implicit operands of the commands (30_encoding.md R108). -/

namespace Sys2Proof

/-- `be32`: the word whose most significant byte is the first byte (R7). -/
def be32 (c : Column) : Word := c.a0 ++ c.a1 ++ c.a2 ++ c.a3

/-- `bytes32`, the inverse of `be32` (R7). -/
def bytes32 (w : Word) : Column :=
  ⟨w.extractLsb' 24 8, w.extractLsb' 16 8, w.extractLsb' 8 8, w.extractLsb' 0 8⟩

/-- The bytes of a column in order. -/
def Column.bytes (c : Column) : List Byte := [c.a0, c.a1, c.a2, c.a3]

/-- Bytewise exclusive OR of two columns (R7). -/
def Column.xor (c d : Column) : Column := ⟨c.a0 ^^^ d.a0, c.a1 ^^^ d.a1, c.a2 ^^^ d.a2, c.a3 ^^^ d.a3⟩

/-- Apply a function to each byte of a column. -/
def Column.map (f : Byte → Byte) (c : Column) : Column := ⟨f c.a0, f c.a1, f c.a2, f c.a3⟩

/-- The 16 bytes of a block in order (R8). -/
def Block.bytes (b : Block) : List Byte := b.c0.bytes ++ b.c1.bytes ++ b.c2.bytes ++ b.c3.bytes

/-- Byte k of a block, for k in 0..15 (R8). -/
def Block.byte (b : Block) (k : Nat) : Byte := b.bytes.getD k 0

/-- The block of the first 16 bytes of a sequence of at least 16. -/
def Block.ofBytes (l : List Byte) : Block :=
  ⟨⟨l.getD 0 0, l.getD 1 0, l.getD 2 0, l.getD 3 0⟩, ⟨l.getD 4 0, l.getD 5 0, l.getD 6 0, l.getD 7 0⟩,
   ⟨l.getD 8 0, l.getD 9 0, l.getD 10 0, l.getD 11 0⟩, ⟨l.getD 12 0, l.getD 13 0, l.getD 14 0, l.getD 15 0⟩⟩

/-- Column j of a block. -/
def Block.col (b : Block) : Fin 4 → Column
  | 0 => b.c0
  | 1 => b.c1
  | 2 => b.c2
  | 3 => b.c3

/-- The block with column j replaced. -/
def Block.setCol (b : Block) (c : Column) : Fin 4 → Block
  | 0 => { b with c0 := c }
  | 1 => { b with c1 := c }
  | 2 => { b with c2 := c }
  | 3 => { b with c3 := c }

/-- Bytewise exclusive OR of two blocks (R7). -/
def Block.xor (b d : Block) : Block := ⟨b.c0.xor d.c0, b.c1.xor d.c1, b.c2.xor d.c2, b.c3.xor d.c3⟩

/-- Apply a function to each byte of a block. -/
def Block.map (f : Byte → Byte) (b : Block) : Block := ⟨b.c0.map f, b.c1.map f, b.c2.map f, b.c3.map f⟩

/-- `int128`: a block as a big-endian unsigned integer, of width 128 since it wraps there (R7, 10_state.md R39). -/
def int128 (b : Block) : BitVec 128 := be32 b.c0 ++ be32 b.c1 ++ be32 b.c2 ++ be32 b.c3

/-- `bytes128`, the inverse of `int128` (R7). -/
def bytes128 (n : BitVec 128) : Block :=
  ⟨bytes32 (n.extractLsb' 96 32), bytes32 (n.extractLsb' 64 32), bytes32 (n.extractLsb' 32 32),
   bytes32 (n.extractLsb' 0 32)⟩

/-- The offset in the window that a bus address selects: `addr - AESC_BASE` where that is in 0..2^18-1 (R71).
`none` for an address outside the window, which is no access to AESC (log entry 5). -/
def Config.windowOffset (c : Config) (addr : Nat) : Option Offset :=
  if c.aescBase ≤ addr ∧ addr < c.aescBase + 2 ^ 18 then some (BitVec.ofNat 18 (addr - c.aescBase)) else none

end Sys2Proof

namespace Sys2Proof.Machine

/-- Offset of RK0 (10_state.md R40). -/
def rkBase : Nat := 0x100

/-- Offset of the DIN window (10_state.md R42). -/
def dinBase : Nat := 0x10000

/-- Offset of the DOUT window (10_state.md R43). -/
def doutBase : Nat := 0x20000

/-- The single registers at the bottom of the register map, by aligned offset (10_state.md R23). -/
def controlTarget : Nat → Target
  | 0x00000 => .id
  | 0x00004 => .caps
  | 0x00008 => .cmd
  | 0x0000C => .status
  | 0x00010 => .ctrl
  | 0x00014 => .keyLen
  | 0x00018 => .len
  | 0x0001C => .outLen
  | 0x00020 => .result
  | _ => .unmapped

/-- What the aligned offset `a` selects in the register map (10_state.md R23, 20_memory.md R76). -/
def targetAt (maxMsgBytes a : Nat) : Target :=
  if a < 0x00030 then controlTarget a
  else if h : 0x00030 ≤ a ∧ a < 0x00040 then .key ⟨(a - 0x00030) / 4, by omega⟩
  else if h : 0x00040 ≤ a ∧ a < 0x00050 then .iv ⟨(a - 0x00040) / 4, by omega⟩
  else if h : 0x00100 ≤ a ∧ a < 0x001B0 then .rk ⟨(a - 0x00100) / 4, by omega⟩
  else if 0x10000 ≤ a ∧ a < 0x10000 + maxMsgBytes then .din ((a - 0x10000) / 4)
  else if 0x20000 ≤ a ∧ a < 0x20000 + maxMsgBytes then .dout ((a - 0x20000) / 4)
  else .unmapped

/-- Address decoding: `off[17:2]` selects the word and `off[1:0]` is ignored (20_memory.md R71, R74). -/
def target (c : Config) (off : Offset) : Target := targetAt c.maxMsgBytes (off.toNat / 4 * 4)

/-- DIN[k]; a draw while the location holds no value (10_state.md R42; 93_implementation_defined.md U3: one value for
one command). -/
def State.dinByte (s : State) (k : Nat) : Byte :=
  (s.din.read k).getD (Config.drawByte s.eventNo (dinBase + k))

/-- DOUT[k]; a draw while the location holds no value (10_state.md R43). -/
def State.doutByte (s : State) (k : Nat) : Byte :=
  (s.dout.read k).getD (Config.drawByte s.eventNo (doutBase + k))

/-- RK0..RK43; a draw for each word while they hold no value (10_state.md R40). -/
def State.schedule (s : State) : Schedule :=
  match s.rk with
  | some w => w
  | none => Vector.ofFn (fun i => Config.drawWord s.eventNo (rkBase + 4 * i.val))

/-- The input message `DIN[0..n)`. -/
def State.dinMsg (s : State) (n : Nat) : List Byte := (List.range n).map s.dinByte

/-- The input block `DIN[0..16)`. -/
def State.dinBlock (s : State) : Block := Block.ofBytes (s.dinMsg 16)

/-- Word j of the DIN window (10_state.md R42, 20_memory.md R72). -/
def State.dinWord (s : State) (j : Nat) : Word :=
  be32 ⟨s.dinByte (4 * j), s.dinByte (4 * j + 1), s.dinByte (4 * j + 2), s.dinByte (4 * j + 3)⟩

/-- Word j of the DOUT window (10_state.md R43, 20_memory.md R72). -/
def State.doutWord (s : State) (j : Nat) : Word :=
  be32 ⟨s.doutByte (4 * j), s.doutByte (4 * j + 1), s.doutByte (4 * j + 2), s.doutByte (4 * j + 3)⟩

end Sys2Proof.Machine
end

