-- ==== Sys2Proof/Machine/Flags.lean ====
section
/-! DEFINITION. The status flags: the error codes (60_exceptions.md R290), the STATUS word (10_state.md R27), its
write-1-to-clear bits, and the interrupt output (10_state.md R44). -/

namespace Sys2Proof.Machine

/-- The code of an error in STATUS.ERR (R290). -/
def CmdError.code : CmdError → BitVec 4
  | .invalidKeyLength => 1
  | .invalidLength => 2
  | .invalidPadding => 3
  | .noKey => 4
  | .capacityExceeded => 5
  | .illegalCommand => 6

/-- STATUS.BUSY as a bit (R28). -/
def Phase.busyBit : Phase → Bool
  | .idle => false
  | .busy => true

/-- The word STATUS reads as: bits [31:12] 0, ERR [11:8], [7:4] 0, BUSY_WR 3, KEY_VALID 2, DONE 1, BUSY 0 (R27). -/
def State.statusWord (s : State) : Word :=
  0#20 ++ s.err ++ 0#4 ++ BitVec.ofBool s.busyWr ++ BitVec.ofBool s.keyValid ++ BitVec.ofBool s.done
    ++ BitVec.ofBool s.phase.busyBit

/-- The word CTRL reads as: IE in bit 0, the rest 0 (R33). -/
def State.ctrlWord (s : State) : Word := (BitVec.ofBool s.ie).setWidth 32

/-- The interrupt output: `irq = CTRL.IE & STATUS.DONE` (R44, R300). -/
def State.irq (s : State) : Bool := s.ie && s.done

/-- What the platform's interrupt input number `line` sees of AESC: `irq` drives the input `IRQ_LINE` (R301). -/
def State.platformIrq (s : State) (line : Nat) : Bool := s.irq && line == s.config.irqLine

/-- A write of `v` to STATUS while IDLE: it clears DONE if bit 1 of `v` is 1 and BUSY_WR if bit 3 is 1, and changes
nothing else (R27). This is the host's acknowledgement of a completion, the analogue of a return (R296). -/
def State.ackStatus (s : State) (v : Word) : State :=
  { s with done := s.done && !v.getLsbD 1, busyWr := s.busyWr && !v.getLsbD 3 }

end Sys2Proof.Machine
end

