-- ==== Sys2Proof/Machine/Ops.lean ====
section
/-! DEFINITION. The shared operations: the host's accesses (20_memory.md), issue and the two completions
(40_dispatch.md R131, R135, R136), reset (70_reset_and_hazards.md R330), and the order of events. -/

namespace Sys2Proof.Machine

/-- Issue of the command word `w` (40_dispatch.md R131): nothing is checked, and BUSY_WR stays. -/
def State.issue (s : State) (w : Word) : State :=
  { s with cmdq := w, phase := .busy, done := false, err := 0 }

/-- `finish(out)`, the successful completion (40_dispatch.md R135). -/
def State.finish (s : State) (out : List Byte) : State :=
  { s with
    dout := s.dout.writeBytes 0 out
    outLen := BitVec.ofNat 32 out.length
    err := 0
    done := true
    phase := .idle }

/-- `raise CmdError(code)`, the failed completion (40_dispatch.md R136): AESC's analogue of taking an exception
(60_exceptions.md R295). No DOUT byte is written. -/
def State.raiseError (s : State) (e : CmdError) : State :=
  { s with outLen := 0, err := e.code, done := true, phase := .idle }

/-- The completion of a command whose rule ends in an output or in an error (40_dispatch.md R133). -/
def State.complete (s : State) : Except CmdError (List Byte) → State
  | .ok out => s.finish out
  | .error e => s.raiseError e

/-- `fits(n)` or CapacityExceeded (40_dispatch.md R138), on unbounded numbers. -/
def State.checkFits (s : State) (n : Nat) : Except CmdError Unit :=
  if n ≤ s.config.maxMsgBytes then .ok () else .error .capacityExceeded

/-- `RequireKey()` (42_cipher_core.md R190). -/
def State.requireKey (s : State) : Except CmdError Unit :=
  if s.keyValid then .ok () else .error .noKey

/-- The value a register reads as while IDLE (10_state.md R24 to R43; 20_memory.md R76). -/
def State.regValue (s : State) : Target → Word
  | .id => 0x41455331
  | .caps => BitVec.ofNat 32 s.config.maxMsgBytes
  | .cmd => 0
  | .status => s.statusWord
  | .ctrl => s.ctrlWord
  | .keyLen => s.keyLen.setWidth 32
  | .len => s.len
  | .outLen => s.outLen
  | .result => s.result.setWidth 32
  | .key j => be32 (s.key.col j)
  | .iv j => be32 (s.iv.col j)
  | .rk i => s.schedule[i]
  | .din j => s.dinWord j
  | .dout j => s.doutWord j
  | .unmapped => 0

/-- The registers whose reads return their values while BUSY (70_reset_and_hazards.md R334). -/
def Target.readableWhileBusy : Target → Bool
  | .id | .caps | .status | .ctrl => true
  | .cmd | .keyLen | .len | .outLen | .result | .key _ | .iv _ | .rk _ | .din _ | .dout _ | .unmapped => false

/-- `BusRead(off)`: the value of the selected word; while BUSY a draw at every offset but four (R334). -/
def State.busReadValue (s : State) (off : Offset) : Word :=
  match s.phase with
  | .idle => s.regValue (target s.config off)
  | .busy =>
    if (target s.config off).readableWhileBusy then s.regValue (target s.config off)
    else Config.drawWord s.eventNo (off.toNat / 4 * 4)

/-- A host write while IDLE (20_memory.md R72, R76 to R78; 10_state.md R26 to R43). -/
def State.writeTarget (s : State) (v : Word) : Target → State
  | .cmd => s.issue v
  | .status => s.ackStatus v
  | .ctrl => { s with ie := v.getLsbD 0 }
  | .keyLen => { s with keyLen := v.setWidth 8 }
  | .len => { s with len := v }
  | .key j => { s with key := s.key.setCol (bytes32 v) j }
  | .iv j => { s with iv := s.iv.setCol (bytes32 v) j }
  | .din j => { s with din := s.din.writeBytes (4 * j) (bytes32 v).bytes }
  | .id | .caps | .outLen | .result | .rk _ | .dout _ | .unmapped => s

/-- `BusWrite(off, v)`: while BUSY every write is dropped and sets BUSY_WR (70_reset_and_hazards.md R333). -/
def State.busWriteAt (s : State) (off : Offset) (v : Word) : State :=
  match s.phase with
  | .busy => { s with busyWr := true }
  | .idle => s.writeTarget v (target s.config off)

/-- The host reads at a bus address. An address outside the window is no access to AESC (log entry 5). -/
def State.hostRead (s : State) (addr : Nat) : State :=
  match s.config.windowOffset addr with
  | some off => { s with readData := s.busReadValue off }
  | none => s

/-- The host writes at a bus address. An address outside the window is no access to AESC (log entry 5). -/
def State.hostWrite (s : State) (addr : Nat) (v : Word) : State :=
  match s.config.windowOffset addr with
  | some off => s.busWriteAt off v
  | none => s

/-- A reset (R330, R331): every field of AESC as after reset. The parameters, the coming events, their number and the
host's last read are not AESC's and stay. -/
def State.resetEvent (s : State) : State :=
  { State.reset with config := s.config, readData := s.readData, events := s.events, eventNo := s.eventNo }

/-- The event that comes next; with none listed it is the engine's turn (40_dispatch.md R132). -/
def State.nextEvent (s : State) : Event := s.events.headD .engine

/-- The state in which the next event happens: the event is off the list and has its number. -/
def State.advance (s : State) : State :=
  { s with events := s.events.tail, eventNo := s.eventNo + 1 }

/-- The state in which the command word `w` is issued and the engine's turn comes next. -/
def State.issueNext (s : State) (w : Word) : State :=
  { s.issue w with events := .engine :: s.events }

end Sys2Proof.Machine
end

