-- ==== Sys2Proof/Machine/Control.lean ====
section
/-! DEFINITION. The dispatcher's own command, NOP, and the completion of an illegal word (40_dispatch.md). -/

namespace Sys2Proof.Machine

/-- NOP (R140). -/
def execNop (s : State) : Host.Outcome State Fault Refusal := .next (s.finish [])

/-- An Illegal command word completes with IllegalCommand (R137). -/
def completeIllegal (s : State) : Host.Outcome State Fault Refusal := .next (s.raiseError .illegalCommand)

end Sys2Proof.Machine
end

