-- ==== Sys2Proof/Machine/Cipher.lean ====
section
/-! DEFINITION. The cipher core (42_cipher_core.md): key expansion, the round operations, the block transformations
and their commands. -/

namespace Sys2Proof.Machine

/-- `RotWord`, the one-byte left rotation (R180). -/
def rotWord (w : Word) : Word := (w <<< 8) ||| (w >>> 24)

/-- `SubWord`, the forward table on each byte of a word (R180). -/
def subWord (w : Word) : Word := be32 ((bytes32 w).map sbox)

/-- `temp` of R181 for word i, from word i-1. -/
def expandTemp (i : Nat) (prev : Word) : Word :=
  if i % 4 = 0 then subWord (rotWord prev) ^^^ ((rcon (i / 4)).setWidth 32 <<< 24) else prev

/-- One turn of the loop of R181. The words made so far are listed latest first: `w[i-1], w[i-2], w[i-3], w[i-4], …`. -/
def expandStep (ws : List Word) (i : Nat) : List Word :=
  (ws.getD 3 0 ^^^ expandTemp i (ws.getD 0 0)) :: ws

/-- All 44 words, latest first (R181). -/
def expandedWords (key : Block) : List Word :=
  (List.range' 4 40).foldl expandStep [be32 key.c3, be32 key.c2, be32 key.c1, be32 key.c0]

theorem expandStep_foldl_length (is : List Nat) (ws : List Word) :
    (is.foldl expandStep ws).length = ws.length + is.length := by
  induction is generalizing ws with
  | nil => rfl
  | cons i is ih => rw [List.foldl_cons, ih]; simp only [expandStep, List.length_cons]; omega

theorem expandedWords_length (key : Block) : (expandedWords key).length = 44 := by
  rw [expandedWords, expandStep_foldl_length]; rfl

/-- `KeyExpansion(key)` (R181). -/
def keyExpansion (key : Block) : Schedule :=
  ⟨⟨(expandedWords key).reverse⟩, by rw [List.size_toArray, List.length_reverse, expandedWords_length]⟩

/-- `RoundKeyBytes(w, r)`: word 4r+c covers column c, its most significant byte row 0 (R182). -/
def roundKeyBytes (w : Schedule) (r : Fin 11) : Block :=
  ⟨bytes32 w[4 * r.val], bytes32 w[4 * r.val + 1], bytes32 w[4 * r.val + 2], bytes32 w[4 * r.val + 3]⟩

/-- `KEY_LEN != 16` ends a key expansion with InvalidKeyLength (R183). -/
def State.checkKeyLen (s : State) : Except CmdError Unit :=
  if s.keyLen = 16 then .ok () else .error .invalidKeyLength

/-- The writes of `KeyLoad()`, which stay whatever the command's end (R183): RK and KEY_VALID on success, KEY_VALID
cleared on failure. -/
def State.keyLoad (s : State) : State :=
  if s.keyLen = 16 then { s with rk := some (keyExpansion s.key), keyValid := true }
  else { s with keyValid := false }

/-- `SubBytes` (R184). -/
def subBytes (s : Block) : Block := s.map sbox

/-- `InvSubBytes` (R185). -/
def invSubBytes (s : Block) : Block := s.map invSbox

/-- `ShiftRows`: row r is rotated left by r positions (R186). -/
def shiftRows (s : Block) : Block :=
  ⟨⟨s.c0.a0, s.c1.a1, s.c2.a2, s.c3.a3⟩, ⟨s.c1.a0, s.c2.a1, s.c3.a2, s.c0.a3⟩,
   ⟨s.c2.a0, s.c3.a1, s.c0.a2, s.c1.a3⟩, ⟨s.c3.a0, s.c0.a1, s.c1.a2, s.c2.a3⟩⟩

/-- `InvShiftRows`: row r is rotated right by r positions (R187). -/
def invShiftRows (s : Block) : Block :=
  ⟨⟨s.c0.a0, s.c3.a1, s.c2.a2, s.c1.a3⟩, ⟨s.c1.a0, s.c0.a1, s.c3.a2, s.c2.a3⟩,
   ⟨s.c2.a0, s.c1.a1, s.c0.a2, s.c3.a3⟩, ⟨s.c3.a0, s.c2.a1, s.c1.a2, s.c0.a3⟩⟩

/-- One column of `MixColumns` (R188). -/
def mixColumn (a : Column) : Column :=
  ⟨xtime a.a0 ^^^ x3 a.a1 ^^^ a.a2 ^^^ a.a3,
   a.a0 ^^^ xtime a.a1 ^^^ x3 a.a2 ^^^ a.a3,
   a.a0 ^^^ a.a1 ^^^ xtime a.a2 ^^^ x3 a.a3,
   x3 a.a0 ^^^ a.a1 ^^^ a.a2 ^^^ xtime a.a3⟩

/-- `MixColumns` (R188). -/
def mixColumns (s : Block) : Block := ⟨mixColumn s.c0, mixColumn s.c1, mixColumn s.c2, mixColumn s.c3⟩

/-- One column of `InvMixColumns` (R189). -/
def invMixColumn (a : Column) : Column :=
  ⟨gmul 0x0e a.a0 ^^^ gmul 0x0b a.a1 ^^^ gmul 0x0d a.a2 ^^^ gmul 0x09 a.a3,
   gmul 0x09 a.a0 ^^^ gmul 0x0e a.a1 ^^^ gmul 0x0b a.a2 ^^^ gmul 0x0d a.a3,
   gmul 0x0d a.a0 ^^^ gmul 0x09 a.a1 ^^^ gmul 0x0e a.a2 ^^^ gmul 0x0b a.a3,
   gmul 0x0b a.a0 ^^^ gmul 0x0d a.a1 ^^^ gmul 0x09 a.a2 ^^^ gmul 0x0e a.a3⟩

/-- `InvMixColumns` (R189). -/
def invMixColumns (s : Block) : Block :=
  ⟨invMixColumn s.c0, invMixColumn s.c1, invMixColumn s.c2, invMixColumn s.c3⟩

/-- `AddRoundKey(s, r)` under the schedule `w` (R191). -/
def addRoundKey (w : Schedule) (s : Block) (r : Fin 11) : Block := s.xor (roundKeyBytes w r)

/-- One of the rounds 1..9 of `Cipher` (R192). -/
def cipherRound (w : Schedule) (s : Block) (r : Fin 11) : Block :=
  addRoundKey w (mixColumns (shiftRows (subBytes s))) r

/-- `Cipher(b)` under the schedule `w` (R192). -/
def cipher (w : Schedule) (b : Block) : Block :=
  let s := ([1, 2, 3, 4, 5, 6, 7, 8, 9] : List (Fin 11)).foldl (cipherRound w) (addRoundKey w b 0)
  addRoundKey w (shiftRows (subBytes s)) 10

/-- One of the rounds 9..1 of `InvCipher`: AddRoundKey comes before InvMixColumns (R193). -/
def invCipherRound (w : Schedule) (s : Block) (r : Fin 11) : Block :=
  invMixColumns (addRoundKey w (invSubBytes (invShiftRows s)) r)

/-- `InvCipher(b)` under the schedule `w` (R193). -/
def invCipher (w : Schedule) (b : Block) : Block :=
  let s := ([9, 8, 7, 6, 5, 4, 3, 2, 1] : List (Fin 11)).foldl (invCipherRound w) (addRoundKey w b 10)
  addRoundKey w (invSubBytes (invShiftRows s)) 0

/-- A diagnostic command that maps `DIN[0..16)` to `DOUT[0..16)` and needs no key (R198 to R203). -/
def State.mapBlock (s : State) (f : Block → Block) : State := s.finish (f s.dinBlock).bytes

/-- SETKEY (R195). -/
def execSetkey (s : State) : Host.Outcome State Fault Refusal :=
  .next (s.keyLoad.complete (do s.checkKeyLen; .ok []))

/-- ENC_BLOCK (R196). -/
def execEncBlock (s : State) : Host.Outcome State Fault Refusal :=
  .next (s.complete (do s.requireKey; .ok (cipher s.schedule s.dinBlock).bytes))

/-- DEC_BLOCK (R197). -/
def execDecBlock (s : State) : Host.Outcome State Fault Refusal :=
  .next (s.complete (do s.requireKey; .ok (invCipher s.schedule s.dinBlock).bytes))

/-- SUBBYTES (R198). -/
def execSubBytes (s : State) : Host.Outcome State Fault Refusal := .next (s.mapBlock subBytes)

/-- INVSUBBYTES (R199). -/
def execInvSubBytes (s : State) : Host.Outcome State Fault Refusal := .next (s.mapBlock invSubBytes)

/-- SHIFTROWS (R200). -/
def execShiftRows (s : State) : Host.Outcome State Fault Refusal := .next (s.mapBlock shiftRows)

/-- INVSHIFTROWS (R201). -/
def execInvShiftRows (s : State) : Host.Outcome State Fault Refusal := .next (s.mapBlock invShiftRows)

/-- MIXCOLUMNS (R202). -/
def execMixColumns (s : State) : Host.Outcome State Fault Refusal := .next (s.mapBlock mixColumns)

/-- INVMIXCOLUMNS (R203). -/
def execInvMixColumns (s : State) : Host.Outcome State Fault Refusal := .next (s.mapBlock invMixColumns)

/-- The round key that RND names; IllegalCommand for 11..15 (30_encoding.md R104), a word the decoder already
refuses. -/
def checkRnd (rnd : BitVec 4) : Except CmdError (Fin 11) :=
  if h : rnd.toNat < 11 then .ok ⟨rnd.toNat, h⟩ else .error .illegalCommand

/-- ADDROUNDKEY rnd (R204): IllegalCommand is checked before NoKey. -/
def execAddRoundKey (rnd : BitVec 4) (s : State) : Host.Outcome State Fault Refusal :=
  .next (s.complete (do
    let r ← checkRnd rnd
    s.requireKey
    .ok (addRoundKey s.schedule s.dinBlock r).bytes))

end Sys2Proof.Machine
end

