-- ==== Sys2Proof/Machine/Modes.lean ====
section
/-! DEFINITION. The mode layer (43_modes.md): padding, the counter, CBC, CTR and their commands. -/

namespace Sys2Proof.Machine

/-- `N = 16 - (len mod 16)`, the pad length of a message of `len` bytes (R240). -/
def padLength (len : Nat) : Nat := 16 - len % 16

/-- `Pad(m)` (R240). -/
def pad (m : List Byte) : List Byte :=
  m ++ List.replicate (padLength m.length) (BitVec.ofNat 8 (padLength m.length))

/-- The last `p` bytes of `m` are all equal to `p` (R241). -/
def paddingUniform (m : List Byte) (p : Byte) : Bool := (m.drop (m.length - p.toNat)).all (· == p)

/-- `Unpad(m)` (R241). -/
def unpad (m : List Byte) : Except CmdError (List Byte) :=
  match m.getLast? with
  | none => .error .invalidPadding
  | some p =>
    if p = 0 ∨ 16 < p.toNat then .error .invalidPadding
    else if m.length < p.toNat then .error .invalidPadding
    else if paddingUniform m p then .ok (m.take (m.length - p.toNat))
    else .error .invalidPadding

/-- `Inc128(c)`: the whole 16 bytes count and wrap (R243). -/
def inc128 (c : Block) : Block := bytes128 (int128 c + 1)

/-- The loop of `CbcEnc` over the next `n` blocks of the padded message (R244). -/
def cbcEncBlocks (w : Schedule) : Nat → List Byte → Block → List Byte
  | 0, _, _ => []
  | n + 1, m, prev =>
    let c := cipher w ((Block.ofBytes m).xor prev)
    c.bytes ++ cbcEncBlocks w n (m.drop 16) c

/-- `CbcEnc(p, iv)` under the schedule `w` (R244). -/
def cbcEnc (w : Schedule) (p : List Byte) (iv : Block) : List Byte :=
  cbcEncBlocks w ((pad p).length / 16) (pad p) iv

/-- The loop of `CbcDecRaw` over the next `n` blocks (R245). -/
def cbcDecBlocks (w : Schedule) : Nat → List Byte → Block → List Byte
  | 0, _, _ => []
  | n + 1, c, prev =>
    let blk := Block.ofBytes c
    ((invCipher w blk).xor prev).bytes ++ cbcDecBlocks w n (c.drop 16) blk

/-- `CbcDecRaw(c, iv)` under the schedule `w` (R245). -/
def cbcDecRaw (w : Schedule) (c : List Byte) (iv : Block) : List Byte := cbcDecBlocks w (c.length / 16) c iv

/-- `CbcDec(c, iv)` (R246): the whole unpadded plaintext or an error. -/
def cbcDec (w : Schedule) (c : List Byte) (iv : Block) : Except CmdError (List Byte) := unpad (cbcDecRaw w c iv)

/-- A chunk of up to 16 bytes against the first bytes of a keystream block (R247). -/
def xorChunk (chunk : List Byte) (ks : Block) : List Byte := List.zipWith (· ^^^ ·) chunk ks.bytes

/-- The loop of `CtrXcrypt` over the next `n` chunks (R247). -/
def ctrChunks (w : Schedule) : Nat → List Byte → Block → List Byte
  | 0, _, _ => []
  | n + 1, m, ctr => xorChunk (m.take 16) (cipher w ctr) ++ ctrChunks w n (m.drop 16) (inc128 ctr)

/-- `CtrXcrypt(m, nonce)` under the schedule `w` (R247). -/
def ctrXcrypt (w : Schedule) (m : List Byte) (nonce : Block) : List Byte :=
  ctrChunks w ((m.length + 15) / 16) m nonce

/-- "LEN = 0 or LEN mod 16 != 0" is InvalidLength (R251). -/
def checkBlockLength (n : Nat) : Except CmdError Unit :=
  if n = 0 ∨ n % 16 ≠ 0 then .error .invalidLength else .ok ()

/-- What CTR_ENC and CTR_DEC share: they are "the identical operation" (R252, R253). -/
def State.ctrCommand (s : State) : State :=
  let t := s.keyLoad
  let n := s.len.toNat
  t.complete (do
    s.checkKeyLen
    t.checkFits n
    .ok (ctrXcrypt t.schedule (t.dinMsg n) t.iv))

/-- CBC_ENC (R250). -/
def execCbcEnc (s : State) : Host.Outcome State Fault Refusal :=
  let t := s.keyLoad
  let n := s.len.toNat
  .next (t.complete (do
    s.checkKeyLen
    t.checkFits (n + padLength n)
    .ok (cbcEnc t.schedule (t.dinMsg n) t.iv)))

/-- CBC_DEC (R251). -/
def execCbcDec (s : State) : Host.Outcome State Fault Refusal :=
  let t := s.keyLoad
  let n := s.len.toNat
  .next (t.complete (do
    s.checkKeyLen
    t.checkFits n
    checkBlockLength n
    cbcDec t.schedule (t.dinMsg n) t.iv))

/-- CTR_ENC (R252). -/
def execCtrEnc (s : State) : Host.Outcome State Fault Refusal := .next s.ctrCommand

/-- CTR_DEC (R253). -/
def execCtrDec (s : State) : Host.Outcome State Fault Refusal := .next s.ctrCommand

/-- PAD (R254). -/
def execPad (s : State) : Host.Outcome State Fault Refusal :=
  let n := s.len.toNat
  .next (s.complete (do s.checkFits (n + padLength n); .ok (pad (s.dinMsg n))))

/-- UNPAD (R255). -/
def execUnpad (s : State) : Host.Outcome State Fault Refusal :=
  let n := s.len.toNat
  .next (s.complete (do s.checkFits n; unpad (s.dinMsg n)))

/-- CTR_INC (R256). -/
def execCtrInc (s : State) : Host.Outcome State Fault Refusal :=
  .next ({ s with iv := inc128 s.iv }.finish [])

end Sys2Proof.Machine
end

