-- ==== Sys2Proof/Machine/Step.lean ====
section
/-! DEFINITION. One step of AESC: the next event of the one total order (20_memory.md R80, 40_dispatch.md R130). -/

namespace Sys2Proof.Machine

/-- The engine's turn (40_dispatch.md R130, R133): while BUSY it completes the command in CMDQ; while IDLE the
completion is not enabled and nothing happens. -/
def engineTurn (s : State) : Host.Outcome State Fault Refusal :=
  match s.phase with
  | .idle => .next s
  | .busy =>
    match decode s.cmdq with
    | .error _ => completeIllegal s
    | .ok i => exec i s

/-- One event: a host access, the engine's turn, or a reset (R130). -/
def step (s : State) : Host.Outcome State Fault Refusal :=
  match s.nextEvent with
  | .busRead addr => .next (s.advance.hostRead addr)
  | .busWrite addr v => .next (s.advance.hostWrite addr v)
  | .engine => engineTurn s.advance
  | .reset => .next s.advance.resetEvent

/-- The state whose very next step runs the command word `w`: the word is issued, as the host's write to CMD issues it
(40_dispatch.md R131), and the engine's turn is next. -/
def State.withFetchWord (s : State) (nbits w : Nat) : State := s.issueNext (tableWord nbits w)

end Sys2Proof.Machine
end

