-- ==== Sys2Proof/Safety.lean ====
section
/-! DEFINITION. What the claims call safe: the invariant of AESC's state, and a machine that never stops. -/

namespace Sys2Proof.Machine

/-- A RAM holds its canonical form and no byte beyond the buffer's size (10_state.md R42, R43). -/
structure Memory.InBuffer (m : Memory) (size : Nat) : Prop where
  canonical : m.wf
  bounded : ∀ c ∈ m, c.1 < size

/-- What holds in every state a run of AESC reaches. -/
structure State.Inv (s : State) : Prop where
  /-- The parameter MAX_MSG_BYTES is in its range (00_scope.md R5). -/
  configLegal : s.config.Legal
  /-- DIN is a buffer of MAX_MSG_BYTES bytes (10_state.md R42). -/
  dinInBuffer : s.din.InBuffer s.config.maxMsgBytes
  /-- DOUT is a buffer of MAX_MSG_BYTES bytes (10_state.md R43). -/
  doutInBuffer : s.dout.InBuffer s.config.maxMsgBytes
  /-- The codes 7 to 15 are never produced (60_exceptions.md R290). -/
  errInRange : s.err.toNat ≤ 6
  /-- Issue clears DONE and ERR, and only a completion sets them (10_state.md R29, R32). -/
  busyClear : s.phase = .busy → s.done = false ∧ s.err = 0
  /-- OUT_LEN is 0 after any error (10_state.md R36). -/
  errorNoOutput : s.err ≠ 0 → s.outLen = 0
  /-- The output fits DOUT (40_dispatch.md R135). -/
  outLenFits : s.outLen.toNat ≤ s.config.maxMsgBytes
  /-- Every byte of the last output has a value (10_state.md R36). -/
  outputWritten : ∀ k < s.outLen.toNat, s.dout.read k ≠ none
  /-- While KEY_VALID is 1, RK holds the key expansion of some 16-byte key (10_state.md R30). -/
  keyValidSchedule : s.keyValid = true → ∃ key, s.rk = some (keyExpansion key)

/-- The commands that begin with the key-expansion step `KeyLoad()`: SETKEY and the four message commands
(40_dispatch.md R139, 42_cipher_core.md R183). -/
def expandsKey : Instr → Bool
  | .setkey | .cbcEnc | .cbcDec | .ctrEnc | .ctrDec => true
  | .nop | .encBlock | .decBlock | .pad | .unpad | .ctrInc | .gfmul _ _ | .subBytes | .invSubBytes | .shiftRows
  | .invShiftRows | .mixColumns | .invMixColumns | .addRoundKey _ => false

/-- From `s` on, no step ever ends in a fault or a refusal. -/
def State.NeverStops (s : State) : Prop := ∀ n, ∃ t, Host.Core.run Sys2Proof.core n s = .next t

end Sys2Proof.Machine
end

