-- ==== Sys2Proof/Certificates/Slice0/Obligations.lean ====
section
/-! DEFINITION. The statements about AESC, each formalising rules of spec/ (OBLIGATIONS.json says which). -/

open Sys2Proof Sys2Proof.Machine

namespace Sys2Proof.Stated

/-- `t` is `s` after a successful completion with `n` output bytes: byte k of them is `out k`, every other DOUT byte is
as it was, OUT_LEN is `n`, and nothing else but ERR, DONE and the phase differs (40_dispatch.md R135). -/
def CompletesWith (s t : State) (n : Nat) (out : Nat → Byte) : Prop :=
  (∀ k < n, t.dout.read k = some (out k)) ∧ (∀ k, n ≤ k → t.dout.read k = s.dout.read k) ∧
  t = { s with dout := t.dout, outLen := BitVec.ofNat 32 n, err := 0, done := true, phase := .idle }

/-- `t` is `s` after a completion with an error: OUT_LEN is 0, ERR is the code, and nothing else but DONE and the phase
differs (40_dispatch.md R136). -/
def FailsWith (s t : State) (code : BitVec 4) : Prop :=
  t = { s with outLen := 0, err := code, done := true, phase := .idle }

/-- `s` after the key-expansion step of a command whose KEY_LEN is 16 (42_cipher_core.md R183). -/
def keyLoaded (s : State) : State := { s with rk := some (keyExpansion s.key), keyValid := true }

/-- `s` after its next event has been taken off the list. -/
def eventTaken (s : State) : State := { s with events := s.events.tail, eventNo := s.eventNo + 1 }

/-- The engine's turn is next: the list says so, or it is empty. -/
def EngineNext (s : State) : Prop := s.events = [] ∨ s.events.head? = some .engine

/-- The next event is the host's write of `v` at offset `off` of the window. -/
def WriteNext (s : State) (off : Nat) (v : Word) : Prop :=
  off < 2 ^ 18 ∧ s.events.head? = some (.busWrite (s.config.aescBase + off) v)

/-- The next event is the host's read at offset `off` of the window. -/
def ReadNext (s : State) (off : Nat) : Prop :=
  off < 2 ^ 18 ∧ s.events.head? = some (.busRead (s.config.aescBase + off))

/-- The offsets 10_state.md R23 names no register for, as 20_memory.md R76 lists them. -/
def UnmappedOffset (max off : Nat) : Prop :=
  (0x00024 ≤ off ∧ off < 0x00030) ∨ (0x00050 ≤ off ∧ off < 0x00100) ∨ (0x001B0 ≤ off ∧ off < 0x10000) ∨
  (0x10000 + max ≤ off ∧ off < 0x20000) ∨ (0x20000 + max ≤ off ∧ off < 0x40000)

/-- The read-only registers of 20_memory.md R77: ID, CAPS, OUT_LEN, RESULT, RK0..RK43 and the DOUT window. -/
def ReadOnlyOffset (max off : Nat) : Prop :=
  off < 0x00008 ∨ (0x0001C ≤ off ∧ off < 0x00024) ∨ (0x00100 ≤ off ∧ off < 0x001B0) ∨
  (0x20000 ≤ off ∧ off < 0x20000 + max)

/-- Bits [hi:lo] of a byte sequence's word: byte k of word `v` is bits [31-8k : 24-8k] (20_memory.md R73). -/
def wordByte (v : Word) (k : Nat) : Byte := v.extractLsb' (24 - 8 * k) 8

/-- The polynomial product of two bytes, before reduction: coefficients of x^0 to x^14 (41_field_tables.md R150). -/
def polyProduct (a b : Byte) : BitVec 16 :=
  (List.range 8).foldl (fun p i => if a.getLsbD i then p ^^^ (b.setWidth 16 <<< i) else p) 0

/-- The remainder modulo x^8+x^4+x^3+x+1 (0x11B): cancel x^14, then x^13, down to x^8. -/
def polyRemainder (p : BitVec 16) : BitVec 16 :=
  [14, 13, 12, 11, 10, 9, 8].foldl (fun p i => if p.getLsbD i then p ^^^ (0x11B#16 <<< (i - 8)) else p) p

/-- The entry in row `r`, column `j` of the circulant matrix whose first row is given. -/
def circulant (row : List Byte) (r j : Nat) : Byte := row.getD ((j + 4 - r) % 4) 0

/-- Four bytes of one column, DIN[4c..4c+3], times row `r` of a circulant matrix, over GF(2^8). -/
def rowProduct (row : List Byte) (s : State) (r c : Nat) : Byte :=
  gmul (circulant row r 0) (s.dinByte (4 * c)) ^^^ gmul (circulant row r 1) (s.dinByte (4 * c + 1)) ^^^
  gmul (circulant row r 2) (s.dinByte (4 * c + 2)) ^^^ gmul (circulant row r 3) (s.dinByte (4 * c + 3))

/-- The pad length of a message of `n` bytes, `16 - (n mod 16)` (43_modes.md R240). -/
def padCount (n : Nat) : Nat := 16 - n % 16

/-- Byte k of the padded message (43_modes.md R240). -/
def paddedByte (s : State) (n k : Nat) : Byte := if k < n then s.dinByte k else BitVec.ofNat 8 (padCount n)

/-- The last byte of the `n`-byte sequence `m` is a valid pad length that its last bytes all repeat
(43_modes.md R241). -/
def PaddingValid (m : Nat → Byte) (n : Nat) : Prop :=
  0 < n ∧ m (n - 1) ≠ 0 ∧ (m (n - 1)).toNat ≤ 16 ∧ (m (n - 1)).toNat ≤ n ∧
  ∀ k, n - (m (n - 1)).toNat ≤ k → k < n → m k = m (n - 1)

/-- `y` with its bits rotated left by `n` in a byte (41_field_tables.md R157). -/
def rotl8 (y : Byte) (n : Nat) : Byte := (y <<< n) ||| (y >>> (8 - n))

end Sys2Proof.Stated

open Sys2Proof.Stated

/-! ## Encoding (30_encoding.md) -/

/-- R100, R101, R106, R109: no bit of a well-formed command is lost by encoding and decoding. -/
def Obligations.DecodeOfEncodeIsIdentity : Prop :=
  ∀ i : Instr, i.wellFormed = true → decode (encode i) = .ok i

/-- R106: every legal word is the encoding of the one well-formed command it decodes to. -/
def Obligations.DecodedWordIsItsEncoding : Prop :=
  ∀ (w : Word) (i : Instr), decode w = .ok i → i.wellFormed = true ∧ encode i = w

/-- R106, "So the legal words are exactly these". -/
def Obligations.LegalWordsAreExactlyTheListed : Prop :=
  ∀ w : Word, (∃ i, decode w = .ok i) ↔
    (w.toNat ≤ 0x0A ∨ (0x10 ≤ w.toNat ∧ w.toNat ≤ 0x15) ∨ (∃ rnd ≤ 10, w.toNat = 0x16 + rnd * 2 ^ 8) ∨
      ∃ a b : Nat, a < 256 ∧ b < 256 ∧ w.toNat = 0x0B + b * 2 ^ 16 + a * 2 ^ 24)

/-- R102 to R105 and R137: with the engine's turn next, an issued word with a reserved opcode, a reserved bit set or an
operand field out of its range completes with code 6 and changes nothing else. -/
def Obligations.IllegalWordCompletesWithCodeSix : Prop :=
  ∀ (s : State), s.phase = .busy → EngineNext s →
    ((s.cmdq.extractLsb' 0 5 ∈ ([0x0C, 0x0D, 0x0E, 0x0F, 0x17, 0x18, 0x19, 0x1A, 0x1B, 0x1C, 0x1D, 0x1E, 0x1F] :
        List (BitVec 5))) ∨
      s.cmdq.extractLsb' 5 3 ≠ 0 ∨ s.cmdq.extractLsb' 12 4 ≠ 0 ∨
      (s.cmdq.extractLsb' 0 5 = 0x16 ∧ 10 < (s.cmdq.extractLsb' 8 4).toNat) ∨
      (s.cmdq.extractLsb' 0 5 ≠ 0x16 ∧ s.cmdq.extractLsb' 8 4 ≠ 0) ∨
      (s.cmdq.extractLsb' 0 5 ≠ 0x0B ∧ (s.cmdq.extractLsb' 16 8 ≠ 0 ∨ s.cmdq.extractLsb' 24 8 ≠ 0))) →
    ∃ t, step s = .next t ∧ FailsWith (eventTaken s) t 6

/-- Words written out from the table of R101 and the fields of R100 decode to the commands they stand for. -/
def Obligations.SpecWordsDecode : Prop :=
  decode 0x00000000 = .ok .nop ∧ decode 0x00000002 = .ok .encBlock ∧ decode 0x00000005 = .ok .cbcDec ∧
  decode 0x0000000A = .ok .ctrInc ∧ decode 0x5783000B = .ok (.gfmul 0x57 0x83) ∧
  decode 0x00000015 = .ok .invMixColumns ∧ decode 0x00000A16 = .ok (.addRoundKey 10) ∧
  (∃ e, decode 0x00000B16 = .error e) ∧ (∃ e, decode 0x0000010B = .error e) ∧ (∃ e, decode 0x01000002 = .error e) ∧
  (∃ e, decode 0x00000020 = .error e) ∧ (∃ e, decode 0x00001001 = .error e) ∧ (∃ e, decode 0x0000000C = .error e)

/-! ## Steps and the command lifecycle (40_dispatch.md) -/

/-- R132, R133: when it is the engine's turn and the word in CMDQ decodes to a command, a step is that command's
completion, on the state with the event taken. -/
def Obligations.StepRunsTheDecodedCommand : Prop :=
  ∀ (s : State) (i : Instr), s.phase = .busy → EngineNext s → decode s.cmdq = .ok i →
    step s = exec i (eventTaken s)

/-- R131: a write to CMD while IDLE issues the word unchecked, and changes nothing else; while BUSY it is dropped and
sets BUSY_WR. -/
def Obligations.CmdWriteIssuesOnlyWhileIdle : Prop :=
  ∀ (s : State) (w : Word), WriteNext s 0x00008 w →
    (s.phase = .idle →
      step s = .next { eventTaken s with cmdq := w, phase := .busy, done := false, err := 0 }) ∧
    (s.phase = .busy → step s = .next { eventTaken s with busyWr := true })

/-- R132: from a BUSY state with no reset among the coming events, the issued command completes after a bounded number
of events; until then the machine is BUSY with the same command word. That the engine's turn comes when no event is
listed is the model's choice (log entry 6), after the weak fairness R132 gives a model. -/
def Obligations.IssuedCommandCompletesOnce : Prop :=
  ∀ s : State, s.phase = .busy → .reset ∉ s.events →
    ∃ n ≤ s.events.length + 1, 0 < n ∧
      (∃ t : State, Host.Core.run Sys2Proof.core n s = .next t ∧ t.phase = .idle ∧ t.done = true) ∧
      ∀ m < n, ∃ u : State, Host.Core.run Sys2Proof.core m s = .next u ∧ u.phase = .busy ∧ u.cmdq = s.cmdq

/-- R134: while only host accesses come, a running command's inputs, and every other register and buffer of AESC but
BUSY_WR, stay as they were at issue. -/
def Obligations.InputsStayAsAtIssue : Prop :=
  ∀ (s t : State) (n : Nat), s.phase = .busy → n ≤ s.events.length →
    (∀ e ∈ s.events.take n, (∃ a, e = .busRead a) ∨ ∃ a v, e = .busWrite a v) →
    Host.Core.run Sys2Proof.core n s = .next t →
    t = { s with busyWr := t.busyWr, readData := t.readData, events := s.events.drop n, eventNo := s.eventNo + n }

/-- R295, R132: nothing ever stops AESC. -/
def Obligations.NoStepEverStops : Prop := ∀ s : State, s.NeverStops

/-! ## What every command keeps (30_encoding.md R108, 40_dispatch.md R135 and R136) -/

/-- R108: what no command writes, whatever the command and its outcome. RESULT is GFMUL's alone and IV is CTR_INC's
alone; RK and KEY_VALID belong to the five key-expanding commands. -/
def Obligations.CommandsWriteOnlyTheirRegisters : Prop :=
  ∀ (i : Instr) (s t : State), exec i s = .next t →
    (t.config = s.config ∧ t.cmdq = s.cmdq ∧ t.busyWr = s.busyWr ∧ t.ie = s.ie ∧ t.keyLen = s.keyLen ∧ t.len = s.len ∧
      t.key = s.key ∧ t.din = s.din ∧ t.readData = s.readData ∧ t.events = s.events ∧ t.eventNo = s.eventNo) ∧
    ((∀ a b, i ≠ .gfmul a b) → t.result = s.result) ∧ (i ≠ .ctrInc → t.iv = s.iv) ∧
    (expandsKey i = false → t.rk = s.rk ∧ t.keyValid = s.keyValid)

/-- R339: a command writes only DOUT[0..OUT_LEN), whether it succeeds or fails; after an error OUT_LEN is 0. -/
def Obligations.OnlyTheOutputBytesAreWritten : Prop :=
  ∀ (i : Instr) (s t : State), s.config.Legal → exec i s = .next t →
    (∀ k, t.outLen.toNat ≤ k → t.dout.read k = s.dout.read k) ∧ (∀ k < t.outLen.toNat, t.dout.read k ≠ none) ∧
    (t.err ≠ 0 → t.outLen = 0 ∧ t.dout = s.dout)

/-- R293: a failed command changes nothing but ERR, DONE, OUT_LEN and the phase, and for a key-expanding command what
KeyLoad writes. -/
def Obligations.FailedCommandsArePrecise : Prop :=
  ∀ (i : Instr) (s t : State), exec i s = .next t → t.err ≠ 0 →
    (expandsKey i = false → FailsWith s t t.err) ∧
    (expandsKey i = true → s.keyLen = 16 → FailsWith (keyLoaded s) t t.err) ∧
    (expandsKey i = true → s.keyLen ≠ 16 → FailsWith { s with keyValid := false } t 1)

/-! ## The commands -/

/-- R140: NOP is the word 0 alone, and it does nothing but complete. -/
def Obligations.NopOnlyCompletes : Prop :=
  (∀ w : Word, decode w = .ok .nop ↔ w = 0) ∧
  ∀ s : State, exec .nop s = .next { s with outLen := 0, err := 0, done := true, phase := .idle }

/-- R195, R181, R180: with KEY_LEN = 16, SETKEY completes, KEY_VALID is 1, the first four words of RK are KEY0..KEY3 and
every later one follows the recurrence of key expansion. -/
def Obligations.SetkeyExpandsTheKey : Prop :=
  ∀ s : State, s.keyLen = 16 →
    ∃ (t : State) (w : Schedule), exec .setkey s = .next t ∧
      t = { s with rk := some w, keyValid := true, outLen := 0, err := 0, done := true, phase := .idle } ∧
      w[0] = be32 s.key.c0 ∧ w[1] = be32 s.key.c1 ∧ w[2] = be32 s.key.c2 ∧ w[3] = be32 s.key.c3 ∧
      ∀ (i : Nat) (_ : 4 ≤ i) (_ : i < 44),
        w[i] = w[i - 4] ^^^
          (if i % 4 = 0 then
            be32 ⟨sbox (bytes32 w[i - 1]).a1 ^^^ rcon (i / 4), sbox (bytes32 w[i - 1]).a2,
              sbox (bytes32 w[i - 1]).a3, sbox (bytes32 w[i - 1]).a0⟩
          else w[i - 1])

/-- R183, R291: with KEY_LEN other than 16 each key-expanding command fails with InvalidKeyLength whatever LEN is,
clears KEY_VALID and leaves RK. -/
def Obligations.WrongKeyLengthComesFirst : Prop :=
  ∀ (i : Instr) (s : State), expandsKey i = true → s.keyLen ≠ 16 →
    exec i s = .next { s with keyValid := false, outLen := 0, err := 1, done := true, phase := .idle }

/-- R196, R197: with a valid key the block commands complete with Cipher or InvCipher of DIN[0..16) under RK. -/
def Obligations.BlockCommandsEncryptAndDecrypt : Prop :=
  ∀ (s : State) (b : Block), s.keyValid = true → (∀ k < 16, b.byte k = s.dinByte k) →
    (∃ t, exec .encBlock s = .next t ∧ CompletesWith s t 16 (cipher s.schedule b).byte) ∧
    (∃ t, exec .decBlock s = .next t ∧ CompletesWith s t 16 (invCipher s.schedule b).byte)

/-- R190: without a valid key the commands that read RK fail with NoKey. -/
def Obligations.NoKeyIsRefused : Prop :=
  ∀ (i : Instr) (s : State), (i = .encBlock ∨ i = .decBlock ∨ ∃ rnd, i = .addRoundKey rnd ∧ rnd.toNat ≤ 10) →
    s.keyValid = false → ∃ t, exec i s = .next t ∧ FailsWith s t 4

/-- R184, R185, R198, R199: the words 0x10 and 0x11 map every byte of DIN[0..16) through SBOX or INV_SBOX. -/
def Obligations.SubstitutionCommandsMapEveryByte : Prop :=
  decode 0x00000010 = .ok .subBytes ∧ decode 0x00000011 = .ok .invSubBytes ∧
  ∀ s : State,
    (∃ t, exec .subBytes s = .next t ∧ CompletesWith s t 16 (fun k => sbox (s.dinByte k))) ∧
    (∃ t, exec .invSubBytes s = .next t ∧ CompletesWith s t 16 (fun k => invSbox (s.dinByte k)))

/-- R186, R187, R200, R201: byte r + 4c of the output is byte r + 4((c + r) mod 4), or r + 4((c - r) mod 4), of DIN. -/
def Obligations.ShiftCommandsRotateTheRows : Prop :=
  decode 0x00000012 = .ok .shiftRows ∧ decode 0x00000013 = .ok .invShiftRows ∧
  ∀ s : State,
    (∃ t, exec .shiftRows s = .next t ∧
      CompletesWith s t 16 (fun k => s.dinByte (k % 4 + 4 * ((k / 4 + k % 4) % 4)))) ∧
    (∃ t, exec .invShiftRows s = .next t ∧
      CompletesWith s t 16 (fun k => s.dinByte (k % 4 + 4 * ((k / 4 + 4 - k % 4) % 4))))

/-- R188, R189, R202, R203: each column is multiplied by the circulant (02 03 01 01), or by the circulant (0e 0b 0d 09),
over GF(2^8). -/
def Obligations.MixCommandsMultiplyTheColumns : Prop :=
  decode 0x00000014 = .ok .mixColumns ∧ decode 0x00000015 = .ok .invMixColumns ∧
  ∀ s : State,
    (∃ t, exec .mixColumns s = .next t ∧
      CompletesWith s t 16 (fun k => rowProduct [0x02, 0x03, 0x01, 0x01] s (k % 4) (k / 4))) ∧
    (∃ t, exec .invMixColumns s = .next t ∧
      CompletesWith s t 16 (fun k => rowProduct [0x0e, 0x0b, 0x0d, 0x09] s (k % 4) (k / 4)))

/-- R182, R191, R204: with a valid key, byte 4c + j of the output is DIN[4c + j] XOR byte j of word RK[4 RND + c]. -/
def Obligations.AddRoundKeyXorsTheRoundKey : Prop :=
  ∀ (s : State) (rnd : BitVec 4), s.keyValid = true → rnd.toNat ≤ 10 →
    ∃ t, exec (.addRoundKey rnd) s = .next t ∧
      CompletesWith s t 16 (fun k =>
        s.dinByte k ^^^ wordByte (s.schedule.toList.getD (4 * rnd.toNat + k / 4) 0) (k % 4))

/-- R204, R104: RND in 11..15 is IllegalCommand, checked before NoKey. -/
def Obligations.AddRoundKeyRangeIsCheckedBeforeTheKey : Prop :=
  ∀ (s : State) (rnd : BitVec 4), 10 < rnd.toNat →
    ∃ t, exec (.addRoundKey rnd) s = .next t ∧ FailsWith s t 6

/-- R160, R150: RESULT is the polynomial product of A and B modulo x^8+x^4+x^3+x+1. -/
def Obligations.GfmulGivesThePolynomialProduct : Prop :=
  ∀ (a b : Byte) (s : State), decode (a ++ b ++ 0x000B#16) = .ok (.gfmul a b) ∧
    exec (.gfmul a b) s = .next { s with
      result := (polyRemainder (polyProduct a b)).setWidth 8, outLen := 0, err := 0, done := true, phase := .idle }

/-- R256, R243: IV counts up by 1 as one 128-bit big-endian number that wraps. -/
def Obligations.CtrIncCountsAllSixteenBytes : Prop :=
  decode 0x0000000A = .ok .ctrInc ∧
  ∀ s : State, ∃ t, exec .ctrInc s = .next t ∧
    t = { s with iv := t.iv, outLen := 0, err := 0, done := true, phase := .idle } ∧
    (int128 t.iv).toNat = ((int128 s.iv).toNat + 1) % 2 ^ 128

/-- R240, R254: PAD copies the message and appends N bytes equal to N. -/
def Obligations.PadAppendsItsLength : Prop :=
  ∀ s : State, s.len.toNat + padCount s.len.toNat ≤ s.config.maxMsgBytes →
    ∃ t, exec .pad s = .next t ∧
      CompletesWith s t (s.len.toNat + padCount s.len.toNat) (paddedByte s s.len.toNat)

/-- R241, R255: UNPAD strips valid padding and fails with InvalidPadding on every other message. -/
def Obligations.UnpadStripsOnlyValidPadding : Prop :=
  ∀ s : State, s.len.toNat ≤ s.config.maxMsgBytes →
    (PaddingValid s.dinByte s.len.toNat → ∃ t, exec .unpad s = .next t ∧
      CompletesWith s t (s.len.toNat - (s.dinByte (s.len.toNat - 1)).toNat) s.dinByte) ∧
    (¬ PaddingValid s.dinByte s.len.toNat → ∃ t, exec .unpad s = .next t ∧ FailsWith s t 3)

/-- R244, R250: with KEY_LEN = 16 and room for the output, CBC_ENC completes; block j of the output is Cipher of the
padded message's block j XOR the output's block j-1 (IV for the first), under the schedule of KEY. -/
def Obligations.CbcEncChainsTheBlocks : Prop :=
  ∀ s : State, s.keyLen = 16 → s.len.toNat + padCount s.len.toNat ≤ s.config.maxMsgBytes →
    ∃ (t : State) (out : Nat → Byte), exec .cbcEnc s = .next t ∧
      CompletesWith (keyLoaded s) t (s.len.toNat + padCount s.len.toNat) out ∧
      ∀ (j : Nat) (x : Block), 16 * j < s.len.toNat + padCount s.len.toNat →
        (∀ k < 16, x.byte k = paddedByte s s.len.toNat (16 * j + k) ^^^
          (if j = 0 then s.iv.byte k else out (16 * (j - 1) + k))) →
        ∀ k < 16, out (16 * j + k) = (cipher (keyExpansion s.key) x).byte k

/-- R245, R251: with KEY_LEN = 16 and LEN a positive multiple of 16 that fits, CBC_DEC computes the raw plaintext
`raw`, block j of it InvCipher of ciphertext block j XOR ciphertext block j-1 (IV for the first); it completes with the
unpadded plaintext when the padding is valid, and fails with InvalidPadding, no byte written, when it is not. -/
def Obligations.CbcDecUnpadsTheRawPlaintext : Prop :=
  ∀ (s : State) (raw : Nat → Byte), s.keyLen = 16 → s.len.toNat ≤ s.config.maxMsgBytes →
    s.len.toNat ≠ 0 → s.len.toNat % 16 = 0 →
    (∀ (j : Nat) (x : Block), 16 * j < s.len.toNat → (∀ k < 16, x.byte k = s.dinByte (16 * j + k)) →
      ∀ k < 16, raw (16 * j + k) = (invCipher (keyExpansion s.key) x).byte k ^^^
        (if j = 0 then s.iv.byte k else s.dinByte (16 * (j - 1) + k))) →
    (PaddingValid raw s.len.toNat → ∃ t, exec .cbcDec s = .next t ∧
      CompletesWith (keyLoaded s) t (s.len.toNat - (raw (s.len.toNat - 1)).toNat) raw) ∧
    (¬ PaddingValid raw s.len.toNat → ∃ t, exec .cbcDec s = .next t ∧ FailsWith (keyLoaded s) t 3)

/-- R251, R291: with KEY_LEN = 16 and LEN that fits, CBC_DEC fails with InvalidLength when LEN is 0 or no multiple of
16; the schedule of KEY has been loaded. -/
def Obligations.CbcDecNeedsWholeBlocks : Prop :=
  ∀ s : State, s.keyLen = 16 → s.len.toNat ≤ s.config.maxMsgBytes →
    (s.len.toNat = 0 ∨ s.len.toNat % 16 ≠ 0) →
    ∃ t, exec .cbcDec s = .next t ∧ FailsWith (keyLoaded s) t 2

/-- R247, R248, R252, R253: with KEY_LEN = 16 and LEN that fits, CTR_ENC and CTR_DEC complete, and byte k of the output
is DIN[k] XOR byte k mod 16 of Cipher of the counter nonce + k/16. -/
def Obligations.CtrCommandsXorTheKeystream : Prop :=
  ∀ (i : Instr) (s : State), (i = .ctrEnc ∨ i = .ctrDec) → s.keyLen = 16 →
    s.len.toNat ≤ s.config.maxMsgBytes →
    ∃ (t : State) (out : Nat → Byte), exec i s = .next t ∧ CompletesWith (keyLoaded s) t s.len.toNat out ∧
      ∀ (k : Nat) (c : Block), k < s.len.toNat →
        (int128 c).toNat = ((int128 s.iv).toNat + k / 16) % 2 ^ 128 →
        out k = s.dinByte k ^^^ (cipher (keyExpansion s.key) c).byte (k % 16)

/-- R138: a message command whose input or output does not fit its buffer fails with CapacityExceeded, for LEN + N
taken on unbounded numbers, and (R291) before LEN is looked at otherwise. -/
def Obligations.OversizedMessagesAreRefused : Prop :=
  ∀ s : State,
    (s.keyLen = 16 → s.config.maxMsgBytes < s.len.toNat + padCount s.len.toNat →
      ∃ t, exec .cbcEnc s = .next t ∧ FailsWith (keyLoaded s) t 5) ∧
    (s.config.maxMsgBytes < s.len.toNat + padCount s.len.toNat → ∃ t, exec .pad s = .next t ∧ FailsWith s t 5) ∧
    (s.keyLen = 16 → s.config.maxMsgBytes < s.len.toNat →
      (∃ t, exec .cbcDec s = .next t ∧ FailsWith (keyLoaded s) t 5) ∧
      (∃ t, exec .ctrEnc s = .next t ∧ FailsWith (keyLoaded s) t 5) ∧
      (∃ t, exec .ctrDec s = .next t ∧ FailsWith (keyLoaded s) t 5)) ∧
    (s.config.maxMsgBytes < s.len.toNat → ∃ t, exec .unpad s = .next t ∧ FailsWith s t 5)

/-! ## Laws of the functions -/

/-- R153. -/
def Obligations.GmulIsAFieldProduct : Prop :=
  (∀ a b : Byte, gmul a b = gmul b a) ∧ (∀ a b c : Byte, gmul a (gmul b c) = gmul (gmul a b) c) ∧
  (∀ a b c : Byte, gmul a (b ^^^ c) = gmul a b ^^^ gmul a c) ∧ (∀ a : Byte, gmul 0 a = 0 ∧ gmul 1 a = a) ∧
  ∀ a : Byte, a ≠ 0 → ∃ b, gmul a b = 1 ∧ ∀ c, gmul a c = 1 → c = b

/-- R155, R156, R157: INV_SBOX and SBOX are inverse to each other; the round constants are the powers of x; every entry
of SBOX follows the generating rule from the field inverse `y` of its index, and none is its own index. -/
def Obligations.TablesFollowTheirRules : Prop :=
  (∀ x : Byte, invSbox (sbox x) = x ∧ sbox (invSbox x) = x ∧ sbox x ≠ x) ∧
  (rcon 0 = 0 ∧ rcon 1 = 1 ∧ ∀ r : Nat, 1 ≤ r → r < 10 → rcon (r + 1) = gmul (rcon r) 0x02) ∧
  ∀ x y : Byte, (x = 0 → y = 0) → (x ≠ 0 → gmul x y = 1) →
    sbox x = y ^^^ rotl8 y 1 ^^^ rotl8 y 2 ^^^ rotl8 y 3 ^^^ rotl8 y 4 ^^^ 0x63

/-- R192, R193: Cipher is AddRoundKey 0, then the rounds 1 to 9, then a last round without MixColumns; InvCipher is
AddRoundKey 10, then the inverse rounds 9 down to 1 with AddRoundKey before InvMixColumns, then round 0. -/
def Obligations.CipherIsItsRounds : Prop :=
  ∀ (w : Schedule) (b : Block) (f g : Nat → Block),
    f 0 = addRoundKey w b 0 →
    (∀ (r : Nat) (_ : r < 9),
      f (r + 1) = addRoundKey w (mixColumns (shiftRows (subBytes (f r)))) ⟨r + 1, by omega⟩) →
    g 9 = addRoundKey w b 10 →
    (∀ (r : Nat) (_ : r < 9),
      g r = invMixColumns (addRoundKey w (invSubBytes (invShiftRows (g (r + 1)))) ⟨r + 1, by omega⟩)) →
    cipher w b = addRoundKey w (shiftRows (subBytes (f 9))) 10 ∧
    invCipher w b = addRoundKey w (invSubBytes (invShiftRows (g 0))) 0

/-- R194: InvCipher undoes Cipher and Cipher undoes InvCipher, under every schedule. -/
def Obligations.InvCipherInvertsCipher : Prop :=
  ∀ (w : Schedule) (b : Block), invCipher w (cipher w b) = b ∧ cipher w (invCipher w b) = b

/-- R242. -/
def Obligations.UnpadUndoesPadAndFailsExactly : Prop :=
  (∀ m : List Byte, unpad (pad m) = .ok m) ∧
  (∀ m : List Byte, (∃ e, unpad m = .error e) ↔ ¬ PaddingValid (fun k => m.getD k 0) m.length) ∧
  ∀ m out : List Byte, unpad m = .ok out → out.length + 1 ≤ m.length ∧ m.length ≤ out.length + 16

/-- R249, under every schedule (R194, R244 to R248): CBC decryption undoes CBC encryption, and counter mode undoes
itself, for messages of every length. -/
def Obligations.ModesAreTheirOwnRoundTrips : Prop :=
  ∀ (w : Schedule) (p : List Byte) (iv : Block),
    cbcDec w (cbcEnc w p iv) iv = .ok p ∧ ctrXcrypt w (ctrXcrypt w p iv) iv = p

/-! ## The host's accesses (10_state.md, 20_memory.md, 70_reset_and_hazards.md) -/

/-- R333: a write that arrives while BUSY, at whatever offset, only sets BUSY_WR. -/
def Obligations.WriteWhileBusyOnlySetsBusyWr : Prop :=
  ∀ (s : State) (off : Nat) (v : Word), s.phase = .busy → WriteNext s off v →
    step s = .next { eventTaken s with busyWr := true }

/-- R27: a write to STATUS while IDLE clears DONE and BUSY_WR where its bits 1 and 3 are 1 and changes nothing else; a
read of STATUS shows the fields at their bits and zeros between; after reset it reads 0. -/
def Obligations.StatusReadsItsFieldsAndClearsOnOnes : Prop :=
  State.reset.statusWord = 0 ∧
  (∀ (s : State) (v : Word), s.phase = .idle → WriteNext s 0x0000C v →
    step s = .next { eventTaken s with
      done := if v.getLsbD 1 then false else s.done, busyWr := if v.getLsbD 3 then false else s.busyWr }) ∧
  ∀ s : State, ReadNext s 0x0000C → ∃ v : Word, step s = .next { eventTaken s with readData := v } ∧
    (v.getLsbD 0 = true ↔ s.phase = .busy) ∧ v.getLsbD 1 = s.done ∧ v.getLsbD 2 = s.keyValid ∧
    v.getLsbD 3 = s.busyWr ∧ v.extractLsb' 4 4 = 0 ∧ v.extractLsb' 8 4 = s.err ∧ v.extractLsb' 12 20 = 0

/-- R33, R34, R35: a write to CTRL, KEY_LEN or LEN while IDLE stores its bit 0, its bits [7:0] or all of it, and
nothing else. -/
def Obligations.ControlRegistersStoreTheirBits : Prop :=
  ∀ (s : State) (v : Word), s.phase = .idle →
    (WriteNext s 0x00010 v → step s = .next { eventTaken s with ie := v.getLsbD 0 }) ∧
    (WriteNext s 0x00014 v → step s = .next { eventTaken s with keyLen := v.setWidth 8 }) ∧
    (WriteNext s 0x00018 v → step s = .next { eventTaken s with len := v })

/-- R38, R39, R73: a write to KEYj or IVj while IDLE stores its four bytes big-endian at bytes 4j to 4j+3 and nothing
else. -/
def Obligations.KeyAndIvWordsAreBigEndian : Prop :=
  ∀ (s : State) (j : Nat) (v : Word), s.phase = .idle → j < 4 →
    (WriteNext s (0x00030 + 4 * j) v → ∃ b : Block, step s = .next { eventTaken s with key := b } ∧
      ∀ k < 16, b.byte k = if k / 4 = j then wordByte v (k % 4) else s.key.byte k) ∧
    (WriteNext s (0x00040 + 4 * j) v → ∃ b : Block, step s = .next { eventTaken s with iv := b } ∧
      ∀ k < 16, b.byte k = if k / 4 = j then wordByte v (k % 4) else s.iv.byte k)

/-- R42, R72: a write to word j of the DIN window while IDLE sets its four bytes together, most significant first, and
nothing else. -/
def Obligations.DinWriteSetsFourBytes : Prop :=
  ∀ (s : State) (j : Nat) (v : Word), s.phase = .idle → j < s.config.maxMsgBytes / 4 → s.config.Legal →
    WriteNext s (0x10000 + 4 * j) v → ∃ m : Memory, step s = .next { eventTaken s with din := m } ∧
      ∀ k, m.read k = if k / 4 = j then some (wordByte v (k % 4)) else s.din.read k

/-- R77: a write to a read-only register while IDLE changes nothing. -/
def Obligations.ReadOnlyRegistersIgnoreWrites : Prop :=
  ∀ (s : State) (off : Nat) (v : Word), s.phase = .idle → s.config.Legal → ReadOnlyOffset s.config.maxMsgBytes off →
    WriteNext s off v → step s = .next (eventTaken s)

/-- R76: an unmapped offset reads as 0 while IDLE, ignores writes while IDLE, and a write to it while BUSY sets BUSY_WR
like any write. -/
def Obligations.UnmappedOffsetsReadZeroAndIgnoreWrites : Prop :=
  ∀ (s : State) (off : Nat) (v : Word), s.config.Legal → UnmappedOffset s.config.maxMsgBytes off →
    (s.phase = .idle → ReadNext s off → step s = .next { eventTaken s with readData := 0 }) ∧
    (s.phase = .idle → WriteNext s off v → step s = .next (eventTaken s)) ∧
    (s.phase = .busy → WriteNext s off v → step s = .next { eventTaken s with busyWr := true })

/-- R24 to R26, R33 to R40: what the registers read as while IDLE. -/
def Obligations.RegistersReadTheirValues : Prop :=
  ∀ s : State, s.phase = .idle →
    (ReadNext s 0x00000 → step s = .next { eventTaken s with readData := 0x41455331 }) ∧
    (ReadNext s 0x00004 → step s = .next { eventTaken s with readData := BitVec.ofNat 32 s.config.maxMsgBytes }) ∧
    (ReadNext s 0x00008 → step s = .next { eventTaken s with readData := 0 }) ∧
    (ReadNext s 0x00010 → step s = .next { eventTaken s with readData := if s.ie then 1 else 0 }) ∧
    (ReadNext s 0x00014 → step s = .next { eventTaken s with readData := s.keyLen.setWidth 32 }) ∧
    (ReadNext s 0x00018 → step s = .next { eventTaken s with readData := s.len }) ∧
    (ReadNext s 0x0001C → step s = .next { eventTaken s with readData := s.outLen }) ∧
    (ReadNext s 0x00020 → step s = .next { eventTaken s with readData := s.result.setWidth 32 }) ∧
    (∀ j < 4, ReadNext s (0x00030 + 4 * j) → ∃ v : Word, step s = .next { eventTaken s with readData := v } ∧
      ∀ k < 4, wordByte v k = s.key.byte (4 * j + k)) ∧
    (∀ j < 4, ReadNext s (0x00040 + 4 * j) → ∃ v : Word, step s = .next { eventTaken s with readData := v } ∧
      ∀ k < 4, wordByte v k = s.iv.byte (4 * j + k)) ∧
    (∀ (w : Schedule) (i : Nat) (_ : i < 44), s.rk = some w → ReadNext s (0x00100 + 4 * i) →
      step s = .next { eventTaken s with readData := w[i] })

/-- R42, R43, R72: a read of a word of the DIN or the DOUT window while IDLE gives its four bytes, most significant
first, each byte that holds a value as it is. -/
def Obligations.BufferWindowsReadTheirBytes : Prop :=
  ∀ (s : State) (j : Nat), s.phase = .idle → j < s.config.maxMsgBytes / 4 → s.config.Legal →
    (ReadNext s (0x10000 + 4 * j) → ∃ v : Word, step s = .next { eventTaken s with readData := v } ∧
      ∀ k < 4, ∀ b, s.din.read (4 * j + k) = some b → wordByte v k = b) ∧
    (ReadNext s (0x20000 + 4 * j) → ∃ v : Word, step s = .next { eventTaken s with readData := v } ∧
      ∀ k < 4, ∀ b, s.dout.read (4 * j + k) = some b → wordByte v k = b)

/-- R75: a host read, wherever and whenever, changes nothing of AESC. -/
def Obligations.ReadsHaveNoSideEffects : Prop :=
  ∀ (s : State) (addr : Nat), s.events.head? = some (.busRead addr) →
    ∃ v : Word, step s = .next { eventTaken s with readData := v }

/-- R334: while BUSY, ID, CAPS, CTRL and STATUS read their values; STATUS then shows BUSY 1, DONE 0 and ERR 0 in every
state that meets the invariant. -/
def Obligations.StatusCanBePolledWhileBusy : Prop :=
  ∀ s : State, s.phase = .busy → s.Inv →
    (ReadNext s 0x00000 → step s = .next { eventTaken s with readData := 0x41455331 }) ∧
    (ReadNext s 0x00004 → step s = .next { eventTaken s with readData := BitVec.ofNat 32 s.config.maxMsgBytes }) ∧
    (ReadNext s 0x00010 → step s = .next { eventTaken s with readData := if s.ie then 1 else 0 }) ∧
    (ReadNext s 0x0000C → step s = .next { eventTaken s with
      readData := 1 + (if s.keyValid then 4 else 0) + (if s.busyWr then 8 else 0) })

/-- R74, R71: an access at an offset whose low two bits are not 0 is the access of the aligned word. -/
def Obligations.UnalignedAccessesSelectTheAlignedWord : Prop :=
  ∀ (s : State) (off : Nat) (v : Word) (rest : List Event), off < 2 ^ 18 →
    step { s with events := .busRead (s.config.aescBase + off) :: rest } =
      step { s with events := .busRead (s.config.aescBase + off / 4 * 4) :: rest } ∧
    step { s with events := .busWrite (s.config.aescBase + off) v :: rest } =
      step { s with events := .busWrite (s.config.aescBase + off / 4 * 4) v :: rest }

/-- R44, R300: `irq` is IE and DONE: a completion raises it when enabled, setting IE raises it when a completion is
pending, and clearing DONE, issuing a command or a reset lowers it. -/
def Obligations.InterruptFollowsEnableAndDone : Prop :=
  (∀ s : State, s.irq = true ↔ s.ie = true ∧ s.done = true) ∧
  (∀ s t : State, s.phase = .busy → EngineNext s → step s = .next t → t.irq = s.ie) ∧
  (∀ (s t : State) (v : Word), s.phase = .idle → WriteNext s 0x00010 v → step s = .next t →
    t.irq = (v.getLsbD 0 && s.done)) ∧
  (∀ (s t : State) (v : Word), s.phase = .idle → WriteNext s 0x0000C v → v.getLsbD 1 = true → step s = .next t →
    t.irq = false) ∧
  (∀ (s t : State) (v : Word), s.phase = .idle → WriteNext s 0x00008 v → step s = .next t → t.irq = false) ∧
  (∀ s t : State, s.events.head? = some .reset → step s = .next t → t.irq = false)

/-! ## Whole-machine rules (10_state.md) -/

/-- R28: BUSY is set by an issue and kept by host accesses; a completion, a reset and nothing else end it. -/
def Obligations.BusyIsFromIssueToCompletion : Prop :=
  ∀ s t : State, step s = .next t →
    (t.statusWord.getLsbD 0 = true ↔ t.phase = .busy) ∧
    (t.phase = .busy ↔
      (s.phase = .idle ∧ ∃ off w, 0x00008 ≤ off ∧ off < 0x0000C ∧ WriteNext s off w) ∨
      (s.phase = .busy ∧ ∃ addr, s.events.head? = some (.busRead addr) ∨
        ∃ v, s.events.head? = some (.busWrite addr v)))

/-- R29, R31: after a step DONE is 1 exactly when a completion has set it, or it was 1 and no issue, W1C write of bit 1
while IDLE or reset has cleared it; BUSY_WR is 1 exactly when a host write while BUSY has set it, or it was 1 and no W1C
write of bit 3 while IDLE or reset has cleared it. -/
def Obligations.DoneAndBusyWrFollowTheirEvents : Prop :=
  ∀ s t : State, step s = .next t →
    (t.done = true ↔ (s.phase = .busy ∧ EngineNext s) ∨
      (s.done = true ∧ s.events.head? ≠ some .reset ∧
        ¬ (s.phase = .idle ∧ ∃ off v, WriteNext s off v ∧
          ((0x00008 ≤ off ∧ off < 0x0000C) ∨ (0x0000C ≤ off ∧ off < 0x00010 ∧ v.getLsbD 1 = true))))) ∧
    (t.busyWr = true ↔ (s.phase = .busy ∧ ∃ off v, WriteNext s off v) ∨
      (s.busyWr = true ∧ s.events.head? ≠ some .reset ∧
        ¬ (s.phase = .idle ∧ ∃ off v, WriteNext s off v ∧
          0x0000C ≤ off ∧ off < 0x00010 ∧ v.getLsbD 3 = true)))

/-- R30, R40: RK and KEY_VALID change only at a reset or when a key-expanding command completes: with KEY_LEN = 16 RK is
then the expansion of KEY and KEY_VALID 1, else RK is unchanged and KEY_VALID 0. -/
def Obligations.ScheduleChangesOnlyAtKeyExpansion : Prop :=
  ∀ s t : State, step s = .next t → (t.rk ≠ s.rk ∨ t.keyValid ≠ s.keyValid) →
    s.events.head? = some .reset ∨
    (s.phase = .busy ∧ EngineNext s ∧ ∃ i, decode s.cmdq = .ok i ∧ expandsKey i = true ∧
      (s.keyLen = 16 → t.rk = some (keyExpansion s.key) ∧ t.keyValid = true) ∧
      (s.keyLen ≠ 16 → t.rk = s.rk ∧ t.keyValid = false))

/-- R38, R39, R37: KEY changes only by host writes and reset, IV also by CTR_INC, RESULT only by GFMUL and reset. -/
def Obligations.KeyIvAndResultHaveFewWriters : Prop :=
  ∀ s t : State, step s = .next t → s.events.head? ≠ some .reset →
    (t.key ≠ s.key → s.phase = .idle ∧ ∃ off v, WriteNext s off v ∧ 0x00030 ≤ off ∧ off < 0x00040) ∧
    (t.iv ≠ s.iv →
      (s.phase = .idle ∧ ∃ off v, WriteNext s off v ∧ 0x00040 ≤ off ∧ off < 0x00050) ∨
      (s.phase = .busy ∧ EngineNext s ∧ s.cmdq = 0x0000000A)) ∧
    (t.result ≠ s.result → s.phase = .busy ∧ EngineNext s ∧ s.cmdq.extractLsb' 0 16 = 0x000B)

/-- R80, R5: every step takes exactly one event of the order, and no step changes a parameter. -/
def Obligations.EachStepTakesOneEvent : Prop :=
  ∀ s : State, ∃ t, step s = .next t ∧ t.events = s.events.tail ∧ t.eventNo = s.eventNo + 1 ∧ t.config = s.config

/-! ## Reset and the invariant (70_reset_and_hazards.md) -/

/-- R330, R331: from every state, BUSY or not, a reset gives the state of R330; RK, DIN and DOUT hold no value. What
CMDQ is then is left open. -/
def Obligations.ResetGivesTheResetState : Prop :=
  ∀ s : State, s.events.head? = some .reset → ∃ t, step s = .next t ∧
    t = { eventTaken s with
      phase := .idle, cmdq := t.cmdq, done := false, keyValid := false, busyWr := false, err := 0, ie := false,
      keyLen := 16, len := 0, outLen := 0, result := 0, key := bytes128 0, iv := bytes128 0, rk := none,
      din := [], dout := [] }

/-- R330: the registers of `State.reset` hold the values the spec states. -/
def Obligations.ResetRegistersHoldTheirValues : Prop :=
  State.reset.phase = .idle ∧ State.reset.statusWord = 0 ∧ State.reset.ie = false ∧ State.reset.irq = false ∧
  State.reset.keyLen = 16 ∧ State.reset.len = 0 ∧ State.reset.outLen = 0 ∧ State.reset.result = 0 ∧
  (∀ k < 16, State.reset.key.byte k = 0 ∧ State.reset.iv.byte k = 0) ∧
  State.reset.rk = none ∧ (∀ k, State.reset.din.read k = none ∧ State.reset.dout.read k = none)

/-- The invariant holds at reset. -/
def Obligations.InvariantHoldsAtReset : Prop := State.reset.Inv

/-- Every step from a state that meets the invariant gives one that meets it. -/
def Obligations.EveryStepKeepsTheInvariant : Prop :=
  ∀ s t : State, s.Inv → step s = .next t → t.Inv
end

