-- ==== Sys2Proof/Laws/Blocks.lean ====
section
/-! SUPPORT. The byte and word views of a block are inverse to each other, and the lengths of the sequences the
commands make. -/

namespace Sys2Proof

@[simp] theorem be32_bytes32 (w : Word) : be32 (bytes32 w) = w := by
  simp only [be32, bytes32]
  ext i hi
  grind

@[simp] theorem bytes32_be32 (c : Column) : bytes32 (be32 c) = c := by
  obtain ⟨a0, a1, a2, a3⟩ := c
  simp only [be32, bytes32, Column.mk.injEq]
  refine ⟨?_, ?_, ?_, ?_⟩ <;>
    (ext i hi; simp only [BitVec.getElem_extractLsb']; grind)

@[simp] theorem int128_bytes128 (n : BitVec 128) : int128 (bytes128 n) = n := by
  simp only [int128, bytes128, be32_bytes32]
  ext i hi
  grind

@[simp] theorem bytes128_int128 (b : Block) : bytes128 (int128 b) = b := by
  have h3 : (int128 b).extractLsb' 96 32 = be32 b.c0 := by
    ext i hi; simp only [int128, BitVec.getElem_extractLsb']; grind
  have h2 : (int128 b).extractLsb' 64 32 = be32 b.c1 := by
    ext i hi; simp only [int128, BitVec.getElem_extractLsb']; grind
  have h1 : (int128 b).extractLsb' 32 32 = be32 b.c2 := by
    ext i hi; simp only [int128, BitVec.getElem_extractLsb']; grind
  have h0 : (int128 b).extractLsb' 0 32 = be32 b.c3 := by
    ext i hi; simp only [int128, BitVec.getElem_extractLsb']; grind
  simp only [bytes128, h0, h1, h2, h3, bytes32_be32]

@[simp] theorem Column.bytes_length (c : Column) : c.bytes.length = 4 := rfl

@[simp] theorem Block.bytes_length (b : Block) : b.bytes.length = 16 := rfl

@[simp] theorem Block.ofBytes_bytes (b : Block) : Block.ofBytes b.bytes = b := rfl

/-- Two blocks with the same 16 bytes are one block. -/
theorem Block.ext_byte {b d : Block} (h : ∀ k < 16, b.byte k = d.byte k) : b = d := by
  obtain ⟨⟨a0, a1, a2, a3⟩, ⟨a4, a5, a6, a7⟩, ⟨a8, a9, a10, a11⟩, ⟨a12, a13, a14, a15⟩⟩ := b
  obtain ⟨⟨d0, d1, d2, d3⟩, ⟨d4, d5, d6, d7⟩, ⟨d8, d9, d10, d11⟩, ⟨d12, d13, d14, d15⟩⟩ := d
  simp only [Block.mk.injEq, Column.mk.injEq]
  exact ⟨⟨h 0 (by decide), h 1 (by decide), h 2 (by decide), h 3 (by decide)⟩,
    ⟨h 4 (by decide), h 5 (by decide), h 6 (by decide), h 7 (by decide)⟩,
    ⟨h 8 (by decide), h 9 (by decide), h 10 (by decide), h 11 (by decide)⟩,
    ⟨h 12 (by decide), h 13 (by decide), h 14 (by decide), h 15 (by decide)⟩⟩

namespace Machine

@[simp] theorem dinMsg_length (s : State) (n : Nat) : (s.dinMsg n).length = n := by simp [State.dinMsg]

/-- The input block is the first 16 bytes of DIN, in order. -/
theorem dinBlock_byte (s : State) {k : Nat} (hk : k < 16) : s.dinBlock.byte k = s.dinByte k := by
  interval_cases k <;> rfl

theorem padLength_bounds (n : Nat) : 1 ≤ padLength n ∧ padLength n ≤ 16 := by unfold padLength; omega

@[simp] theorem pad_length (m : List Byte) : (pad m).length = m.length + padLength m.length := by simp [pad]

@[simp] theorem cbcEncBlocks_length (w : Schedule) (n : Nat) (m : List Byte) (prev : Block) :
    (cbcEncBlocks w n m prev).length = 16 * n := by
  induction n generalizing m prev with
  | zero => rfl
  | succ n ih => simp only [cbcEncBlocks, List.length_append, Block.bytes_length, ih]; omega

theorem cbcEnc_length (w : Schedule) (p : List Byte) (iv : Block) :
    (cbcEnc w p iv).length = p.length + padLength p.length := by
  rw [cbcEnc, cbcEncBlocks_length, pad_length]; unfold padLength; omega

@[simp] theorem cbcDecBlocks_length (w : Schedule) (n : Nat) (c : List Byte) (prev : Block) :
    (cbcDecBlocks w n c prev).length = 16 * n := by
  induction n generalizing c prev with
  | zero => rfl
  | succ n ih => simp only [cbcDecBlocks, List.length_append, Block.bytes_length, ih]; omega

theorem ctrChunks_length (w : Schedule) (n : Nat) (m : List Byte) (ctr : Block) :
    (ctrChunks w n m ctr).length = min (16 * n) m.length := by
  induction n generalizing m ctr with
  | zero => simp [ctrChunks]
  | succ n ih =>
    simp only [ctrChunks, xorChunk, List.length_append, List.length_zipWith, List.length_take, Block.bytes_length,
      List.length_drop, ih]
    omega

theorem ctrXcrypt_length (w : Schedule) (m : List Byte) (nonce : Block) :
    (ctrXcrypt w m nonce).length = m.length := by
  rw [ctrXcrypt, ctrChunks_length]; omega

/-- A successful Unpad gives a prefix of the message that lacks its last 1 to 16 bytes. -/
theorem unpad_ok {m out : List Byte} (h : unpad m = .ok out) :
    ∃ p, 1 ≤ p ∧ p ≤ 16 ∧ p ≤ m.length ∧ out = m.take (m.length - p) := by
  unfold unpad at h
  split at h
  · cases h
  · next p _ =>
    split at h
    · cases h
    · next h1 =>
      split at h
      · cases h
      · next h2 =>
        split at h
        · cases h
          have : p.toNat ≠ 0 := fun e => h1 (.inl (BitVec.eq_of_toNat_eq e))
          exact ⟨p.toNat, by omega, by omega, by omega, rfl⟩
        · cases h

theorem unpad_error {m : List Byte} {e : CmdError} (h : unpad m = .error e) : e = .invalidPadding := by
  unfold unpad at h
  repeat' split at h
  all_goals first | (cases h; rfl) | cases h

end Machine

end Sys2Proof
end

