-- ==== Sys2Proof/Laws/Memory.lean ====
section
/-! SUPPORT. What reading and writing a RAM does, and that every write keeps the canonical form. -/

namespace Sys2Proof.Machine

@[simp] theorem read_nil (a : Nat) : Memory.read [] a = none := rfl

@[simp] theorem writeBytes_nil (m : Memory) (a : Nat) : m.writeBytes a [] = m := rfl

@[simp] theorem writeBytes_cons (m : Memory) (a : Nat) (b : Byte) (bs : List Byte) :
    m.writeBytes a (b :: bs) = (m.write a b).writeBytes (a + 1) bs := rfl

/-- A read after a write: the written location holds the byte, every other one what it held. -/
theorem read_write (m : Memory) (a k : Nat) (b : Byte) :
    (m.write a b).read k = if a = k then some b else m.read k := by
  induction m with
  | nil => simp [Memory.write, Memory.read]
  | cons c m ih =>
    obtain ⟨i, v⟩ := c
    simp only [Memory.write]
    split
    · simp [Memory.read]
    · split
      · subst_vars
        simp only [Memory.read]
        split <;> simp_all
      · simp only [Memory.read, ih]
        grind

@[simp] theorem read_write_same (m : Memory) (a : Nat) (b : Byte) : (m.write a b).read a = some b := by
  simp [read_write]

theorem read_write_other {m : Memory} {a k : Nat} {b : Byte} (h : a ≠ k) : (m.write a b).read k = m.read k := by
  simp [read_write, h]

/-- A read after writing a sequence: the locations from `a` on hold it, every other one what it held. -/
theorem read_writeBytes (m : Memory) (a k : Nat) (bs : List Byte) :
    (m.writeBytes a bs).read k = if a ≤ k then (bs[k - a]?).or (m.read k) else m.read k := by
  induction bs generalizing m a with
  | nil => simp
  | cons b bs ih =>
    rw [writeBytes_cons, ih, read_write]
    rcases Nat.lt_trichotomy a k with h | h | h
    · have e : k - a = (k - (a + 1)) + 1 := by omega
      rw [if_pos (by omega), if_neg (by omega), if_pos (by omega), e, List.getElem?_cons_succ]
    · subst h
      simp
    · rw [if_neg (by omega), if_neg (by omega), if_neg (by omega)]

/-- Inside the written sequence. -/
theorem read_writeBytes_inside {m : Memory} {a k : Nat} {bs : List Byte} (h : k < bs.length) :
    (m.writeBytes a bs).read (a + k) = some bs[k] := by
  rw [read_writeBytes, if_pos (by omega)]
  simp [h]

/-- Outside the written sequence. -/
theorem read_writeBytes_outside {m : Memory} {a k : Nat} {bs : List Byte} (h : k < a ∨ a + bs.length ≤ k) :
    (m.writeBytes a bs).read k = m.read k := by
  rw [read_writeBytes]
  split
  · rw [List.getElem?_eq_none (by omega)]; rfl
  · rfl

theorem mem_write {m : Memory} {a : Nat} {b : Byte} {c : Host.Cell} (h : c ∈ m.write a b) : c = (a, b) ∨ c ∈ m := by
  induction m with
  | nil => simpa [Memory.write] using h
  | cons d m ih =>
    obtain ⟨i, v⟩ := d
    simp only [Memory.write] at h
    split at h
    · simpa using h
    · split at h
      · simp only [List.mem_cons] at h ⊢; tauto
      · simp only [List.mem_cons] at h ⊢
        rcases h with h | h
        · tauto
        · have := ih h; tauto

/-- A write keeps the canonical form. -/
theorem write_wf {m : Memory} (h : m.wf) (a : Nat) (b : Byte) : (m.write a b).wf := by
  induction m with
  | nil => simp [Memory.write, Memory.wf]
  | cons c m ih =>
    obtain ⟨i, v⟩ := c
    have ⟨hc, hm⟩ := List.pairwise_cons.mp h
    simp only [Memory.write]
    split
    · next hlt =>
      refine List.pairwise_cons.mpr ⟨fun d hd => ?_, h⟩
      rcases List.mem_cons.mp hd with rfl | hd
      · exact hlt
      · exact Nat.lt_trans hlt (hc d hd)
    · split
      · next heq => subst heq; exact List.pairwise_cons.mpr ⟨hc, hm⟩
      · refine List.pairwise_cons.mpr ⟨fun d hd => ?_, ih hm⟩
        rcases mem_write hd with rfl | hd
        · simp only; omega
        · exact hc d hd

/-- A write inside the buffer keeps it a buffer of its size. -/
theorem write_inBuffer {m : Memory} {size a : Nat} (h : m.InBuffer size) (ha : a < size) (b : Byte) :
    (m.write a b).InBuffer size where
  canonical := write_wf h.canonical a b
  bounded := fun c hc => by
    rcases mem_write hc with rfl | hc
    · exact ha
    · exact h.bounded c hc

/-- Writing a sequence inside the buffer keeps it a buffer of its size. -/
theorem writeBytes_inBuffer {m : Memory} {size a : Nat} {bs : List Byte} (h : m.InBuffer size)
    (ha : a + bs.length ≤ size) : (m.writeBytes a bs).InBuffer size := by
  induction bs generalizing m a with
  | nil => exact h
  | cons b bs ih =>
    rw [List.length_cons] at ha
    exact ih (write_inBuffer h (by omega) b) (by omega)

/-- Writing a sequence keeps the canonical form. -/
theorem writeBytes_wf {m : Memory} (h : m.wf) (a : Nat) (bs : List Byte) : (m.writeBytes a bs).wf := by
  induction bs generalizing m a with
  | nil => exact h
  | cons b bs ih => exact ih (write_wf h a b) (a + 1)

theorem reset_memories_wf : State.reset.din.wf ∧ State.reset.dout.wf := by decide

end Sys2Proof.Machine
end

