-- ==== Sys2Proof/Laws/State.lean ====
section
/-! SUPPORT. One lemma for each field of State and each named update, so that no later proof unfolds a record update. -/

namespace Sys2Proof.Machine

/-! `advance` -/

@[simp] theorem advance_config (s : State) : (s.advance).config = s.config := rfl
@[simp] theorem advance_phase (s : State) : (s.advance).phase = s.phase := rfl
@[simp] theorem advance_cmdq (s : State) : (s.advance).cmdq = s.cmdq := rfl
@[simp] theorem advance_done (s : State) : (s.advance).done = s.done := rfl
@[simp] theorem advance_keyValid (s : State) : (s.advance).keyValid = s.keyValid := rfl
@[simp] theorem advance_busyWr (s : State) : (s.advance).busyWr = s.busyWr := rfl
@[simp] theorem advance_err (s : State) : (s.advance).err = s.err := rfl
@[simp] theorem advance_ie (s : State) : (s.advance).ie = s.ie := rfl
@[simp] theorem advance_keyLen (s : State) : (s.advance).keyLen = s.keyLen := rfl
@[simp] theorem advance_len (s : State) : (s.advance).len = s.len := rfl
@[simp] theorem advance_outLen (s : State) : (s.advance).outLen = s.outLen := rfl
@[simp] theorem advance_result (s : State) : (s.advance).result = s.result := rfl
@[simp] theorem advance_key (s : State) : (s.advance).key = s.key := rfl
@[simp] theorem advance_iv (s : State) : (s.advance).iv = s.iv := rfl
@[simp] theorem advance_rk (s : State) : (s.advance).rk = s.rk := rfl
@[simp] theorem advance_din (s : State) : (s.advance).din = s.din := rfl
@[simp] theorem advance_dout (s : State) : (s.advance).dout = s.dout := rfl
@[simp] theorem advance_readData (s : State) : (s.advance).readData = s.readData := rfl
@[simp] theorem advance_events (s : State) : (s.advance).events = s.events.tail := rfl
@[simp] theorem advance_eventNo (s : State) : (s.advance).eventNo = s.eventNo + 1 := rfl

/-! `issue` -/

@[simp] theorem issue_config (s : State) (w : Word) : (s.issue w).config = s.config := rfl
@[simp] theorem issue_phase (s : State) (w : Word) : (s.issue w).phase = .busy := rfl
@[simp] theorem issue_cmdq (s : State) (w : Word) : (s.issue w).cmdq = w := rfl
@[simp] theorem issue_done (s : State) (w : Word) : (s.issue w).done = false := rfl
@[simp] theorem issue_keyValid (s : State) (w : Word) : (s.issue w).keyValid = s.keyValid := rfl
@[simp] theorem issue_busyWr (s : State) (w : Word) : (s.issue w).busyWr = s.busyWr := rfl
@[simp] theorem issue_err (s : State) (w : Word) : (s.issue w).err = 0 := rfl
@[simp] theorem issue_ie (s : State) (w : Word) : (s.issue w).ie = s.ie := rfl
@[simp] theorem issue_keyLen (s : State) (w : Word) : (s.issue w).keyLen = s.keyLen := rfl
@[simp] theorem issue_len (s : State) (w : Word) : (s.issue w).len = s.len := rfl
@[simp] theorem issue_outLen (s : State) (w : Word) : (s.issue w).outLen = s.outLen := rfl
@[simp] theorem issue_result (s : State) (w : Word) : (s.issue w).result = s.result := rfl
@[simp] theorem issue_key (s : State) (w : Word) : (s.issue w).key = s.key := rfl
@[simp] theorem issue_iv (s : State) (w : Word) : (s.issue w).iv = s.iv := rfl
@[simp] theorem issue_rk (s : State) (w : Word) : (s.issue w).rk = s.rk := rfl
@[simp] theorem issue_din (s : State) (w : Word) : (s.issue w).din = s.din := rfl
@[simp] theorem issue_dout (s : State) (w : Word) : (s.issue w).dout = s.dout := rfl
@[simp] theorem issue_readData (s : State) (w : Word) : (s.issue w).readData = s.readData := rfl
@[simp] theorem issue_events (s : State) (w : Word) : (s.issue w).events = s.events := rfl
@[simp] theorem issue_eventNo (s : State) (w : Word) : (s.issue w).eventNo = s.eventNo := rfl

/-! `issueNext` -/

@[simp] theorem issueNext_config (s : State) (w : Word) : (s.issueNext w).config = s.config := rfl
@[simp] theorem issueNext_phase (s : State) (w : Word) : (s.issueNext w).phase = .busy := rfl
@[simp] theorem issueNext_cmdq (s : State) (w : Word) : (s.issueNext w).cmdq = w := rfl
@[simp] theorem issueNext_done (s : State) (w : Word) : (s.issueNext w).done = false := rfl
@[simp] theorem issueNext_keyValid (s : State) (w : Word) : (s.issueNext w).keyValid = s.keyValid := rfl
@[simp] theorem issueNext_busyWr (s : State) (w : Word) : (s.issueNext w).busyWr = s.busyWr := rfl
@[simp] theorem issueNext_err (s : State) (w : Word) : (s.issueNext w).err = 0 := rfl
@[simp] theorem issueNext_ie (s : State) (w : Word) : (s.issueNext w).ie = s.ie := rfl
@[simp] theorem issueNext_keyLen (s : State) (w : Word) : (s.issueNext w).keyLen = s.keyLen := rfl
@[simp] theorem issueNext_len (s : State) (w : Word) : (s.issueNext w).len = s.len := rfl
@[simp] theorem issueNext_outLen (s : State) (w : Word) : (s.issueNext w).outLen = s.outLen := rfl
@[simp] theorem issueNext_result (s : State) (w : Word) : (s.issueNext w).result = s.result := rfl
@[simp] theorem issueNext_key (s : State) (w : Word) : (s.issueNext w).key = s.key := rfl
@[simp] theorem issueNext_iv (s : State) (w : Word) : (s.issueNext w).iv = s.iv := rfl
@[simp] theorem issueNext_rk (s : State) (w : Word) : (s.issueNext w).rk = s.rk := rfl
@[simp] theorem issueNext_din (s : State) (w : Word) : (s.issueNext w).din = s.din := rfl
@[simp] theorem issueNext_dout (s : State) (w : Word) : (s.issueNext w).dout = s.dout := rfl
@[simp] theorem issueNext_readData (s : State) (w : Word) : (s.issueNext w).readData = s.readData := rfl
@[simp] theorem issueNext_events (s : State) (w : Word) : (s.issueNext w).events = .engine :: s.events := rfl
@[simp] theorem issueNext_eventNo (s : State) (w : Word) : (s.issueNext w).eventNo = s.eventNo := rfl

/-! `finish` -/

@[simp] theorem finish_config (s : State) (out : List Byte) : (s.finish out).config = s.config := rfl
@[simp] theorem finish_phase (s : State) (out : List Byte) : (s.finish out).phase = .idle := rfl
@[simp] theorem finish_cmdq (s : State) (out : List Byte) : (s.finish out).cmdq = s.cmdq := rfl
@[simp] theorem finish_done (s : State) (out : List Byte) : (s.finish out).done = true := rfl
@[simp] theorem finish_keyValid (s : State) (out : List Byte) : (s.finish out).keyValid = s.keyValid := rfl
@[simp] theorem finish_busyWr (s : State) (out : List Byte) : (s.finish out).busyWr = s.busyWr := rfl
@[simp] theorem finish_err (s : State) (out : List Byte) : (s.finish out).err = 0 := rfl
@[simp] theorem finish_ie (s : State) (out : List Byte) : (s.finish out).ie = s.ie := rfl
@[simp] theorem finish_keyLen (s : State) (out : List Byte) : (s.finish out).keyLen = s.keyLen := rfl
@[simp] theorem finish_len (s : State) (out : List Byte) : (s.finish out).len = s.len := rfl
@[simp] theorem finish_outLen (s : State) (out : List Byte) : (s.finish out).outLen = BitVec.ofNat 32 out.length := rfl
@[simp] theorem finish_result (s : State) (out : List Byte) : (s.finish out).result = s.result := rfl
@[simp] theorem finish_key (s : State) (out : List Byte) : (s.finish out).key = s.key := rfl
@[simp] theorem finish_iv (s : State) (out : List Byte) : (s.finish out).iv = s.iv := rfl
@[simp] theorem finish_rk (s : State) (out : List Byte) : (s.finish out).rk = s.rk := rfl
@[simp] theorem finish_din (s : State) (out : List Byte) : (s.finish out).din = s.din := rfl
@[simp] theorem finish_dout (s : State) (out : List Byte) : (s.finish out).dout = s.dout.writeBytes 0 out := rfl
@[simp] theorem finish_readData (s : State) (out : List Byte) : (s.finish out).readData = s.readData := rfl
@[simp] theorem finish_events (s : State) (out : List Byte) : (s.finish out).events = s.events := rfl
@[simp] theorem finish_eventNo (s : State) (out : List Byte) : (s.finish out).eventNo = s.eventNo := rfl

/-! `raiseError` -/

@[simp] theorem raiseError_config (s : State) (e : CmdError) : (s.raiseError e).config = s.config := rfl
@[simp] theorem raiseError_phase (s : State) (e : CmdError) : (s.raiseError e).phase = .idle := rfl
@[simp] theorem raiseError_cmdq (s : State) (e : CmdError) : (s.raiseError e).cmdq = s.cmdq := rfl
@[simp] theorem raiseError_done (s : State) (e : CmdError) : (s.raiseError e).done = true := rfl
@[simp] theorem raiseError_keyValid (s : State) (e : CmdError) : (s.raiseError e).keyValid = s.keyValid := rfl
@[simp] theorem raiseError_busyWr (s : State) (e : CmdError) : (s.raiseError e).busyWr = s.busyWr := rfl
@[simp] theorem raiseError_err (s : State) (e : CmdError) : (s.raiseError e).err = e.code := rfl
@[simp] theorem raiseError_ie (s : State) (e : CmdError) : (s.raiseError e).ie = s.ie := rfl
@[simp] theorem raiseError_keyLen (s : State) (e : CmdError) : (s.raiseError e).keyLen = s.keyLen := rfl
@[simp] theorem raiseError_len (s : State) (e : CmdError) : (s.raiseError e).len = s.len := rfl
@[simp] theorem raiseError_outLen (s : State) (e : CmdError) : (s.raiseError e).outLen = 0 := rfl
@[simp] theorem raiseError_result (s : State) (e : CmdError) : (s.raiseError e).result = s.result := rfl
@[simp] theorem raiseError_key (s : State) (e : CmdError) : (s.raiseError e).key = s.key := rfl
@[simp] theorem raiseError_iv (s : State) (e : CmdError) : (s.raiseError e).iv = s.iv := rfl
@[simp] theorem raiseError_rk (s : State) (e : CmdError) : (s.raiseError e).rk = s.rk := rfl
@[simp] theorem raiseError_din (s : State) (e : CmdError) : (s.raiseError e).din = s.din := rfl
@[simp] theorem raiseError_dout (s : State) (e : CmdError) : (s.raiseError e).dout = s.dout := rfl
@[simp] theorem raiseError_readData (s : State) (e : CmdError) : (s.raiseError e).readData = s.readData := rfl
@[simp] theorem raiseError_events (s : State) (e : CmdError) : (s.raiseError e).events = s.events := rfl
@[simp] theorem raiseError_eventNo (s : State) (e : CmdError) : (s.raiseError e).eventNo = s.eventNo := rfl

/-! `ackStatus` -/

@[simp] theorem ackStatus_config (s : State) (v : Word) : (s.ackStatus v).config = s.config := rfl
@[simp] theorem ackStatus_phase (s : State) (v : Word) : (s.ackStatus v).phase = s.phase := rfl
@[simp] theorem ackStatus_cmdq (s : State) (v : Word) : (s.ackStatus v).cmdq = s.cmdq := rfl
@[simp] theorem ackStatus_done (s : State) (v : Word) : (s.ackStatus v).done = (s.done && !v.getLsbD 1) := rfl
@[simp] theorem ackStatus_keyValid (s : State) (v : Word) : (s.ackStatus v).keyValid = s.keyValid := rfl
@[simp] theorem ackStatus_busyWr (s : State) (v : Word) : (s.ackStatus v).busyWr = (s.busyWr && !v.getLsbD 3) := rfl
@[simp] theorem ackStatus_err (s : State) (v : Word) : (s.ackStatus v).err = s.err := rfl
@[simp] theorem ackStatus_ie (s : State) (v : Word) : (s.ackStatus v).ie = s.ie := rfl
@[simp] theorem ackStatus_keyLen (s : State) (v : Word) : (s.ackStatus v).keyLen = s.keyLen := rfl
@[simp] theorem ackStatus_len (s : State) (v : Word) : (s.ackStatus v).len = s.len := rfl
@[simp] theorem ackStatus_outLen (s : State) (v : Word) : (s.ackStatus v).outLen = s.outLen := rfl
@[simp] theorem ackStatus_result (s : State) (v : Word) : (s.ackStatus v).result = s.result := rfl
@[simp] theorem ackStatus_key (s : State) (v : Word) : (s.ackStatus v).key = s.key := rfl
@[simp] theorem ackStatus_iv (s : State) (v : Word) : (s.ackStatus v).iv = s.iv := rfl
@[simp] theorem ackStatus_rk (s : State) (v : Word) : (s.ackStatus v).rk = s.rk := rfl
@[simp] theorem ackStatus_din (s : State) (v : Word) : (s.ackStatus v).din = s.din := rfl
@[simp] theorem ackStatus_dout (s : State) (v : Word) : (s.ackStatus v).dout = s.dout := rfl
@[simp] theorem ackStatus_readData (s : State) (v : Word) : (s.ackStatus v).readData = s.readData := rfl
@[simp] theorem ackStatus_events (s : State) (v : Word) : (s.ackStatus v).events = s.events := rfl
@[simp] theorem ackStatus_eventNo (s : State) (v : Word) : (s.ackStatus v).eventNo = s.eventNo := rfl

/-! `resetEvent` -/

@[simp] theorem resetEvent_config (s : State) : (s.resetEvent).config = s.config := rfl
@[simp] theorem resetEvent_phase (s : State) : (s.resetEvent).phase = State.reset.phase := rfl
@[simp] theorem resetEvent_cmdq (s : State) : (s.resetEvent).cmdq = State.reset.cmdq := rfl
@[simp] theorem resetEvent_done (s : State) : (s.resetEvent).done = State.reset.done := rfl
@[simp] theorem resetEvent_keyValid (s : State) : (s.resetEvent).keyValid = State.reset.keyValid := rfl
@[simp] theorem resetEvent_busyWr (s : State) : (s.resetEvent).busyWr = State.reset.busyWr := rfl
@[simp] theorem resetEvent_err (s : State) : (s.resetEvent).err = State.reset.err := rfl
@[simp] theorem resetEvent_ie (s : State) : (s.resetEvent).ie = State.reset.ie := rfl
@[simp] theorem resetEvent_keyLen (s : State) : (s.resetEvent).keyLen = State.reset.keyLen := rfl
@[simp] theorem resetEvent_len (s : State) : (s.resetEvent).len = State.reset.len := rfl
@[simp] theorem resetEvent_outLen (s : State) : (s.resetEvent).outLen = State.reset.outLen := rfl
@[simp] theorem resetEvent_result (s : State) : (s.resetEvent).result = State.reset.result := rfl
@[simp] theorem resetEvent_key (s : State) : (s.resetEvent).key = State.reset.key := rfl
@[simp] theorem resetEvent_iv (s : State) : (s.resetEvent).iv = State.reset.iv := rfl
@[simp] theorem resetEvent_rk (s : State) : (s.resetEvent).rk = State.reset.rk := rfl
@[simp] theorem resetEvent_din (s : State) : (s.resetEvent).din = State.reset.din := rfl
@[simp] theorem resetEvent_dout (s : State) : (s.resetEvent).dout = State.reset.dout := rfl
@[simp] theorem resetEvent_readData (s : State) : (s.resetEvent).readData = s.readData := rfl
@[simp] theorem resetEvent_events (s : State) : (s.resetEvent).events = s.events := rfl
@[simp] theorem resetEvent_eventNo (s : State) : (s.resetEvent).eventNo = s.eventNo := rfl

/-! `keyLoad` -/

@[simp] theorem keyLoad_config (s : State) : s.keyLoad.config = s.config := by unfold State.keyLoad; split <;> rfl
@[simp] theorem keyLoad_phase (s : State) : s.keyLoad.phase = s.phase := by unfold State.keyLoad; split <;> rfl
@[simp] theorem keyLoad_cmdq (s : State) : s.keyLoad.cmdq = s.cmdq := by unfold State.keyLoad; split <;> rfl
@[simp] theorem keyLoad_done (s : State) : s.keyLoad.done = s.done := by unfold State.keyLoad; split <;> rfl
@[simp] theorem keyLoad_keyValid (s : State) : s.keyLoad.keyValid = decide (s.keyLen = 16) := by
  unfold State.keyLoad
  split
  · next h => exact (decide_eq_true h).symm
  · next h => exact (decide_eq_false h).symm
@[simp] theorem keyLoad_busyWr (s : State) : s.keyLoad.busyWr = s.busyWr := by unfold State.keyLoad; split <;> rfl
@[simp] theorem keyLoad_err (s : State) : s.keyLoad.err = s.err := by unfold State.keyLoad; split <;> rfl
@[simp] theorem keyLoad_ie (s : State) : s.keyLoad.ie = s.ie := by unfold State.keyLoad; split <;> rfl
@[simp] theorem keyLoad_keyLen (s : State) : s.keyLoad.keyLen = s.keyLen := by unfold State.keyLoad; split <;> rfl
@[simp] theorem keyLoad_len (s : State) : s.keyLoad.len = s.len := by unfold State.keyLoad; split <;> rfl
@[simp] theorem keyLoad_outLen (s : State) : s.keyLoad.outLen = s.outLen := by unfold State.keyLoad; split <;> rfl
@[simp] theorem keyLoad_result (s : State) : s.keyLoad.result = s.result := by unfold State.keyLoad; split <;> rfl
@[simp] theorem keyLoad_key (s : State) : s.keyLoad.key = s.key := by unfold State.keyLoad; split <;> rfl
@[simp] theorem keyLoad_iv (s : State) : s.keyLoad.iv = s.iv := by unfold State.keyLoad; split <;> rfl
@[simp] theorem keyLoad_rk (s : State) :
    s.keyLoad.rk = if s.keyLen = 16 then some (keyExpansion s.key) else s.rk := by
  unfold State.keyLoad; split <;> rfl
@[simp] theorem keyLoad_din (s : State) : s.keyLoad.din = s.din := by unfold State.keyLoad; split <;> rfl
@[simp] theorem keyLoad_dout (s : State) : s.keyLoad.dout = s.dout := by unfold State.keyLoad; split <;> rfl
@[simp] theorem keyLoad_readData (s : State) : s.keyLoad.readData = s.readData := by unfold State.keyLoad; split <;> rfl
@[simp] theorem keyLoad_events (s : State) : s.keyLoad.events = s.events := by unfold State.keyLoad; split <;> rfl
@[simp] theorem keyLoad_eventNo (s : State) : s.keyLoad.eventNo = s.eventNo := by unfold State.keyLoad; split <;> rfl

/-! `complete` -/

@[simp] theorem complete_config (s : State) (r : Except CmdError (List Byte)) :
    (s.complete r).config = s.config := by cases r <;> rfl
@[simp] theorem complete_cmdq (s : State) (r : Except CmdError (List Byte)) :
    (s.complete r).cmdq = s.cmdq := by cases r <;> rfl
@[simp] theorem complete_keyValid (s : State) (r : Except CmdError (List Byte)) :
    (s.complete r).keyValid = s.keyValid := by cases r <;> rfl
@[simp] theorem complete_busyWr (s : State) (r : Except CmdError (List Byte)) :
    (s.complete r).busyWr = s.busyWr := by cases r <;> rfl
@[simp] theorem complete_ie (s : State) (r : Except CmdError (List Byte)) :
    (s.complete r).ie = s.ie := by cases r <;> rfl
@[simp] theorem complete_keyLen (s : State) (r : Except CmdError (List Byte)) :
    (s.complete r).keyLen = s.keyLen := by cases r <;> rfl
@[simp] theorem complete_len (s : State) (r : Except CmdError (List Byte)) :
    (s.complete r).len = s.len := by cases r <;> rfl
@[simp] theorem complete_result (s : State) (r : Except CmdError (List Byte)) :
    (s.complete r).result = s.result := by cases r <;> rfl
@[simp] theorem complete_key (s : State) (r : Except CmdError (List Byte)) :
    (s.complete r).key = s.key := by cases r <;> rfl
@[simp] theorem complete_iv (s : State) (r : Except CmdError (List Byte)) :
    (s.complete r).iv = s.iv := by cases r <;> rfl
@[simp] theorem complete_rk (s : State) (r : Except CmdError (List Byte)) :
    (s.complete r).rk = s.rk := by cases r <;> rfl
@[simp] theorem complete_din (s : State) (r : Except CmdError (List Byte)) :
    (s.complete r).din = s.din := by cases r <;> rfl
@[simp] theorem complete_readData (s : State) (r : Except CmdError (List Byte)) :
    (s.complete r).readData = s.readData := by cases r <;> rfl
@[simp] theorem complete_events (s : State) (r : Except CmdError (List Byte)) :
    (s.complete r).events = s.events := by cases r <;> rfl
@[simp] theorem complete_eventNo (s : State) (r : Except CmdError (List Byte)) :
    (s.complete r).eventNo = s.eventNo := by cases r <;> rfl
@[simp] theorem complete_ok (s : State) (out : List Byte) : s.complete (.ok out) = s.finish out := rfl
@[simp] theorem complete_error (s : State) (e : CmdError) : s.complete (.error e) = s.raiseError e := rfl
@[simp] theorem complete_done (s : State) (r : Except CmdError (List Byte)) : (s.complete r).done = true := by
  cases r <;> rfl
@[simp] theorem complete_phase (s : State) (r : Except CmdError (List Byte)) : (s.complete r).phase = .idle := by
  cases r <;> rfl

end Sys2Proof.Machine
end

