-- ==== Sys2Proof/Laws/Ops.lean ====
section
/-! SUPPORT. Once for each shared operation, everything it can do; and what one command and one step can do. -/

namespace Sys2Proof.Machine

/-- The checks answer ok exactly under their condition, else with their one error. -/
theorem checkFits_ok {s : State} {n : Nat} (h : n ≤ s.config.maxMsgBytes) : s.checkFits n = .ok () := if_pos h

theorem checkFits_error {s : State} {n : Nat} (h : s.config.maxMsgBytes < n) :
    s.checkFits n = .error .capacityExceeded := if_neg (by omega)

theorem checkKeyLen_ok {s : State} (h : s.keyLen = 16) : s.checkKeyLen = .ok () := if_pos h

theorem checkKeyLen_error {s : State} (h : s.keyLen ≠ 16) : s.checkKeyLen = .error .invalidKeyLength := if_neg h

theorem requireKey_ok {s : State} (h : s.keyValid = true) : s.requireKey = .ok () := if_pos h

theorem requireKey_error {s : State} (h : s.keyValid = false) : s.requireKey = .error .noKey := by
  simp [State.requireKey, h]

theorem checkBlockLength_ok {n : Nat} (h : n ≠ 0) (h' : n % 16 = 0) : checkBlockLength n = .ok () :=
  if_neg (by simp [h, h'])

theorem checkBlockLength_error {n : Nat} (h : n = 0 ∨ n % 16 ≠ 0) : checkBlockLength n = .error .invalidLength :=
  if_pos h

theorem checkRnd_ok {rnd : BitVec 4} (h : rnd.toNat < 11) : checkRnd rnd = .ok ⟨rnd.toNat, h⟩ := dif_pos h

theorem checkRnd_error {rnd : BitVec 4} (h : 10 < rnd.toNat) : checkRnd rnd = .error .illegalCommand :=
  dif_neg (by omega)

theorem keyLoad_ok {s : State} (h : s.keyLen = 16) :
    s.keyLoad = { s with rk := some (keyExpansion s.key), keyValid := true } := if_pos h

theorem keyLoad_error {s : State} (h : s.keyLen ≠ 16) : s.keyLoad = { s with keyValid := false } := if_neg h

/-- An error's code is one of 1..6. -/
theorem code_bounds (e : CmdError) : e.code ≠ 0 ∧ e.code.toNat ≤ 6 := by cases e <;> decide

/-- The result part of a command: what its rule computes, an output or an error, apart from KeyLoad's writes. -/
def commandResult (i : Instr) (s : State) : Except CmdError (List Byte) :=
  let t := s.keyLoad
  let n := s.len.toNat
  match i with
  | .nop => .ok []
  | .setkey => do s.checkKeyLen; .ok []
  | .encBlock => do s.requireKey; .ok (cipher s.schedule s.dinBlock).bytes
  | .decBlock => do s.requireKey; .ok (invCipher s.schedule s.dinBlock).bytes
  | .cbcEnc => do s.checkKeyLen; t.checkFits (n + padLength n); .ok (cbcEnc t.schedule (t.dinMsg n) t.iv)
  | .cbcDec => do s.checkKeyLen; t.checkFits n; checkBlockLength n; cbcDec t.schedule (t.dinMsg n) t.iv
  | .ctrEnc => do s.checkKeyLen; t.checkFits n; .ok (ctrXcrypt t.schedule (t.dinMsg n) t.iv)
  | .ctrDec => do s.checkKeyLen; t.checkFits n; .ok (ctrXcrypt t.schedule (t.dinMsg n) t.iv)
  | .pad => do s.checkFits (n + padLength n); .ok (pad (s.dinMsg n))
  | .unpad => do s.checkFits n; unpad (s.dinMsg n)
  | .ctrInc => .ok []
  | .gfmul _ _ => .ok []
  | .subBytes => .ok (subBytes s.dinBlock).bytes
  | .invSubBytes => .ok (invSubBytes s.dinBlock).bytes
  | .shiftRows => .ok (shiftRows s.dinBlock).bytes
  | .invShiftRows => .ok (invShiftRows s.dinBlock).bytes
  | .mixColumns => .ok (mixColumns s.dinBlock).bytes
  | .invMixColumns => .ok (invMixColumns s.dinBlock).bytes
  | .addRoundKey rnd => do
    let r ← checkRnd rnd
    s.requireKey
    .ok (addRoundKey s.schedule s.dinBlock r).bytes

/-- The register part of a command: the registers its rule assigns beside the completion's own. -/
def commandRegisters (i : Instr) (s : State) : State :=
  match i with
  | .setkey | .cbcEnc | .cbcDec | .ctrEnc | .ctrDec => s.keyLoad
  | .ctrInc => { s with iv := inc128 s.iv }
  | .gfmul a b => { s with result := gmul a b }
  | .nop | .encBlock | .decBlock | .pad | .unpad | .subBytes | .invSubBytes | .shiftRows | .invShiftRows
  | .mixColumns | .invMixColumns | .addRoundKey _ => s

/-- Everything a command can do: its registers are assigned, then it completes with its result. -/
theorem exec_eq_complete (i : Instr) (s : State) :
    exec i s = .next ((commandRegisters i s).complete (commandResult i s)) := by
  cases i <;> rfl

/-- The fields no command touches before its completion. -/
theorem commandRegisters_frame (i : Instr) (s : State) :
    commandRegisters i s =
      { s with rk := (commandRegisters i s).rk, keyValid := (commandRegisters i s).keyValid,
               iv := (commandRegisters i s).iv, result := (commandRegisters i s).result } := by
  cases i <;> simp only [commandRegisters, State.keyLoad] <;> split <;> rfl

/-- An output fits the buffer: 32 bytes at least, and the length checks for the rest. -/
theorem commandResult_length {i : Instr} {s : State} {out : List Byte} (h : commandResult i s = .ok out)
    (hmax : 32 ≤ s.config.maxMsgBytes) : out.length ≤ s.config.maxMsgBytes := by
  cases i with
  | nop | ctrInc | gfmul => cases h; simp
  | subBytes | invSubBytes | shiftRows | invShiftRows | mixColumns | invMixColumns =>
    cases h; rw [Block.bytes_length]; omega
  | setkey =>
    by_cases hk : s.keyLen = 16
    · rw [commandResult, checkKeyLen_ok hk] at h; cases h; simp
    · rw [commandResult, checkKeyLen_error hk] at h; cases h
  | encBlock | decBlock =>
    rcases Bool.eq_false_or_eq_true s.keyValid with hk | hk
    · rw [commandResult, requireKey_ok hk] at h; cases h; rw [Block.bytes_length]; omega
    · rw [commandResult, requireKey_error hk] at h; cases h
  | addRoundKey rnd =>
    by_cases hr : rnd.toNat < 11
    · rw [commandResult, checkRnd_ok hr] at h
      rcases Bool.eq_false_or_eq_true s.keyValid with hk | hk
      · rw [requireKey_ok hk] at h; cases h; rw [Block.bytes_length]; omega
      · rw [requireKey_error hk] at h; cases h
    · rw [commandResult, checkRnd_error (by omega)] at h; cases h
  | cbcEnc =>
    by_cases hk : s.keyLen = 16
    · by_cases hf : s.len.toNat + padLength s.len.toNat ≤ s.keyLoad.config.maxMsgBytes
      · rw [commandResult, checkKeyLen_ok hk, checkFits_ok hf] at h
        cases h
        rw [cbcEnc_length, dinMsg_length]
        rwa [keyLoad_config] at hf
      · rw [commandResult, checkKeyLen_ok hk, checkFits_error (by omega)] at h; cases h
    · rw [commandResult, checkKeyLen_error hk] at h; cases h
  | ctrEnc | ctrDec =>
    by_cases hk : s.keyLen = 16
    · by_cases hf : s.len.toNat ≤ s.keyLoad.config.maxMsgBytes
      · rw [commandResult, checkKeyLen_ok hk, checkFits_ok hf] at h
        cases h
        rw [ctrXcrypt_length, dinMsg_length]
        rwa [keyLoad_config] at hf
      · rw [commandResult, checkKeyLen_ok hk, checkFits_error (by omega)] at h; cases h
    · rw [commandResult, checkKeyLen_error hk] at h; cases h
  | cbcDec =>
    by_cases hk : s.keyLen = 16
    · by_cases hf : s.len.toNat ≤ s.keyLoad.config.maxMsgBytes
      · rw [commandResult, checkKeyLen_ok hk, checkFits_ok hf] at h
        by_cases hb : s.len.toNat = 0 ∨ s.len.toNat % 16 ≠ 0
        · rw [checkBlockLength_error hb] at h; cases h
        · rw [checkBlockLength_ok (by tauto) (by omega)] at h
          obtain ⟨p, _, _, _, rfl⟩ := unpad_ok h
          rw [keyLoad_config] at hf
          simp only [List.length_take, cbcDecRaw, cbcDecBlocks_length, dinMsg_length]
          omega
      · rw [commandResult, checkKeyLen_ok hk, checkFits_error (by omega)] at h; cases h
    · rw [commandResult, checkKeyLen_error hk] at h; cases h
  | pad =>
    by_cases hf : s.len.toNat + padLength s.len.toNat ≤ s.config.maxMsgBytes
    · rw [commandResult, checkFits_ok hf] at h
      cases h
      rwa [pad_length, dinMsg_length]
    · rw [commandResult, checkFits_error (by omega)] at h; cases h
  | unpad =>
    by_cases hf : s.len.toNat ≤ s.config.maxMsgBytes
    · rw [commandResult, checkFits_ok hf] at h
      obtain ⟨p, _, _, _, rfl⟩ := unpad_ok h
      simp only [List.length_take, dinMsg_length]
      omega
    · rw [commandResult, checkFits_error (by omega)] at h; cases h

/-- Everything a host read can do. -/
theorem hostRead_cases (s : State) (addr : Nat) :
    (∃ off, s.config.windowOffset addr = some off ∧ s.hostRead addr = { s with readData := s.busReadValue off }) ∨
    (s.config.windowOffset addr = none ∧ s.hostRead addr = s) := by
  unfold State.hostRead
  split
  · next off h => exact .inl ⟨off, h, rfl⟩
  · next h => exact .inr ⟨h, rfl⟩

/-- Everything a host write can do. -/
theorem hostWrite_cases (s : State) (addr : Nat) (v : Word) :
    (∃ off, s.config.windowOffset addr = some off ∧
      ((s.phase = .busy ∧ s.hostWrite addr v = { s with busyWr := true }) ∨
       (s.phase = .idle ∧ s.hostWrite addr v = s.writeTarget v (target s.config off)))) ∨
    (s.config.windowOffset addr = none ∧ s.hostWrite addr v = s) := by
  unfold State.hostWrite State.busWriteAt
  split
  · next off h =>
    refine .inl ⟨off, h, ?_⟩
    cases hp : s.phase
    · exact .inr ⟨rfl, rfl⟩
    · exact .inl ⟨rfl, rfl⟩
  · next h => exact .inr ⟨h, rfl⟩

/-- Everything the engine's turn can do. -/
theorem engineTurn_cases (s : State) :
    (s.phase = .idle ∧ engineTurn s = .next s) ∨
    (s.phase = .busy ∧ (∃ e, decode s.cmdq = .error e) ∧ engineTurn s = .next (s.raiseError .illegalCommand)) ∨
    (s.phase = .busy ∧ ∃ i, decode s.cmdq = .ok i ∧
      engineTurn s = .next ((commandRegisters i s).complete (commandResult i s))) := by
  unfold engineTurn
  cases hp : s.phase with
  | idle => exact .inl ⟨rfl, rfl⟩
  | busy =>
    cases hd : decode s.cmdq with
    | error e => exact .inr (.inl ⟨rfl, ⟨e, rfl⟩, rfl⟩)
    | ok i => exact .inr (.inr ⟨rfl, i, rfl, exec_eq_complete i s⟩)

/-- Everything a step can do: the next event is a host read, a host write, a reset, or the engine's turn. -/
theorem step_cases (s : State) :
    (∃ addr, s.nextEvent = .busRead addr ∧ step s = .next (s.advance.hostRead addr)) ∨
    (∃ addr v, s.nextEvent = .busWrite addr v ∧ step s = .next (s.advance.hostWrite addr v)) ∨
    (s.nextEvent = .reset ∧ step s = .next s.advance.resetEvent) ∨
    (s.nextEvent = .engine ∧ step s = engineTurn s.advance) := by
  unfold step
  cases h : s.nextEvent with
  | busRead addr => exact .inl ⟨addr, rfl, rfl⟩
  | busWrite addr v => exact .inr (.inl ⟨addr, v, rfl, rfl⟩)
  | reset => exact .inr (.inr (.inl ⟨rfl, rfl⟩))
  | engine => exact .inr (.inr (.inr ⟨rfl, rfl⟩))

/-- A step never stops: the error of a command is a completion too. -/
theorem step_next (s : State) : ∃ t, step s = .next t := by
  rcases step_cases s with ⟨_, _, e⟩ | ⟨_, _, _, e⟩ | ⟨_, e⟩ | ⟨_, e⟩
  · exact ⟨_, e⟩
  · exact ⟨_, e⟩
  · exact ⟨_, e⟩
  · rcases engineTurn_cases s.advance with ⟨_, h⟩ | ⟨_, _, h⟩ | ⟨_, _, _, h⟩ <;> exact ⟨_, e.trans h⟩

/-- One step more at the front of a run, for any machine of the host's interface. -/
theorem core_run_succ (M : Host.Core) (n : Nat) {s u : M.State} (h : M.step s = .next u) :
    M.run (n + 1) s = M.run n u := by
  simp only [Host.Core.run, h]

/-- One step more at the front of a run of AESC. -/
theorem run_succ (n : Nat) {s u : State} (h : step s = .next u) :
    Host.Core.run Sys2Proof.core (n + 1) s = Host.Core.run Sys2Proof.core n u := core_run_succ Sys2Proof.core n h

end Sys2Proof.Machine
end

