-- ==== Sys2Proof/Laws/PerInstr.lean ====
section
/-! SUPPORT. Facts about every command as syntax, one lemma for each constructor of Instr (LAWS.json). -/

namespace Sys2Proof.Laws.EncodedFormat

/-- The encoded word has the command's opcode in OP and zeros in the reserved bits (30_encoding.md R100, R103). -/
def Statement (i : Instr) : Prop := fieldOp (encode i) = opcode i ∧ reservedBitsZero (encode i) = true

/-- OP and the reserved bits of a word made of four fields do not depend on the operand fields. -/
theorem encodeFields_format (op : BitVec 5) (rnd : BitVec 4) (a b : Byte) :
    fieldOp (encodeFields op rnd a b) = op ∧ reservedBitsZero (encodeFields op rnd a b) = true := by
  have h1 : fieldOp (encodeFields op rnd a b) = op := by
    ext i hi
    simp only [fieldOp, encodeFields, BitVec.getElem_extractLsb']
    grind
  have h2 : (encodeFields op rnd a b).extractLsb' 5 3 = 0 := by
    ext i hi
    simp only [encodeFields, BitVec.getElem_extractLsb']
    grind
  have h3 : (encodeFields op rnd a b).extractLsb' 12 4 = 0 := by
    ext i hi
    simp only [encodeFields, BitVec.getElem_extractLsb']
    grind
  exact ⟨h1, by simp [reservedBitsZero, h2, h3]⟩

theorem nop : Statement .nop := encodeFields_format _ _ _ _
theorem setkey : Statement .setkey := encodeFields_format _ _ _ _
theorem encBlock : Statement .encBlock := encodeFields_format _ _ _ _
theorem decBlock : Statement .decBlock := encodeFields_format _ _ _ _
theorem cbcEnc : Statement .cbcEnc := encodeFields_format _ _ _ _
theorem cbcDec : Statement .cbcDec := encodeFields_format _ _ _ _
theorem ctrEnc : Statement .ctrEnc := encodeFields_format _ _ _ _
theorem ctrDec : Statement .ctrDec := encodeFields_format _ _ _ _
theorem pad : Statement .pad := encodeFields_format _ _ _ _
theorem unpad : Statement .unpad := encodeFields_format _ _ _ _
theorem ctrInc : Statement .ctrInc := encodeFields_format _ _ _ _
theorem gfmul (a b : Byte) : Statement (.gfmul a b) := encodeFields_format _ _ _ _
theorem subBytes : Statement .subBytes := encodeFields_format _ _ _ _
theorem invSubBytes : Statement .invSubBytes := encodeFields_format _ _ _ _
theorem shiftRows : Statement .shiftRows := encodeFields_format _ _ _ _
theorem invShiftRows : Statement .invShiftRows := encodeFields_format _ _ _ _
theorem mixColumns : Statement .mixColumns := encodeFields_format _ _ _ _
theorem invMixColumns : Statement .invMixColumns := encodeFields_format _ _ _ _
theorem addRoundKey (rnd : BitVec 4) : Statement (.addRoundKey rnd) := encodeFields_format _ _ _ _

end Sys2Proof.Laws.EncodedFormat
end

