-- ==== Sys2Proof/Laws/Window.lean ====
section
/-! SUPPORT. What each offset of the register window selects (10_state.md R23). -/

namespace Sys2Proof.Machine

/-- An offset inside the window is the one its bus address selects. -/
theorem windowOffset_base {c : Config} {off : Nat} (h : off < 2 ^ 18) :
    c.windowOffset (c.aescBase + off) = some (BitVec.ofNat 18 off) := by
  unfold Config.windowOffset
  rw [if_pos (by omega), Nat.add_sub_cancel_left]

/-- Only an address `AESC_BASE + off` with `off` in the window selects an offset. -/
theorem windowOffset_some {c : Config} {addr : Nat} {off : Offset} (h : c.windowOffset addr = some off) :
    addr = c.aescBase + off.toNat := by
  unfold Config.windowOffset at h
  split at h
  · next hc =>
    cases h
    rw [BitVec.toNat_ofNat, Nat.mod_eq_of_lt (by omega)]
    omega
  · cases h

theorem target_ofNat (c : Config) {off : Nat} (h : off < 2 ^ 18) :
    target c (BitVec.ofNat 18 off) = targetAt c.maxMsgBytes (off / 4 * 4) := by
  rw [target, BitVec.toNat_ofNat, Nat.mod_eq_of_lt h]

theorem targetAt_key (max : Nat) {a : Nat} (h : 0x00030 ≤ a ∧ a < 0x00040) :
    targetAt max a = .key ⟨(a - 0x00030) / 4, by omega⟩ := by
  unfold targetAt
  rw [if_neg (by omega), dif_pos h]

theorem targetAt_iv (max : Nat) {a : Nat} (h : 0x00040 ≤ a ∧ a < 0x00050) :
    targetAt max a = .iv ⟨(a - 0x00040) / 4, by omega⟩ := by
  unfold targetAt
  rw [if_neg (by omega), dif_neg (by omega), dif_pos h]

theorem targetAt_rk (max : Nat) {a : Nat} (h : 0x00100 ≤ a ∧ a < 0x001B0) :
    targetAt max a = .rk ⟨(a - 0x00100) / 4, by omega⟩ := by
  unfold targetAt
  rw [if_neg (by omega), dif_neg (by omega), dif_neg (by omega), dif_pos h]

theorem targetAt_din {max a : Nat} (h : 0x10000 ≤ a ∧ a < 0x10000 + max) :
    targetAt max a = .din ((a - 0x10000) / 4) := by
  unfold targetAt
  rw [if_neg (by omega), dif_neg (by omega), dif_neg (by omega), dif_neg (by omega), if_pos h]

theorem targetAt_dout {max a : Nat} (h : 0x20000 ≤ a ∧ a < 0x20000 + max) (hmax : max ≤ 65536) :
    targetAt max a = .dout ((a - 0x20000) / 4) := by
  unfold targetAt
  rw [if_neg (by omega), dif_neg (by omega), dif_neg (by omega), dif_neg (by omega), if_neg (by omega), if_pos h]

theorem controlTarget_cases (a : Nat) :
    (a = 0x00000 ∧ controlTarget a = .id) ∨ (a = 0x00004 ∧ controlTarget a = .caps) ∨
    (a = 0x00008 ∧ controlTarget a = .cmd) ∨ (a = 0x0000C ∧ controlTarget a = .status) ∨
    (a = 0x00010 ∧ controlTarget a = .ctrl) ∨ (a = 0x00014 ∧ controlTarget a = .keyLen) ∨
    (a = 0x00018 ∧ controlTarget a = .len) ∨ (a = 0x0001C ∧ controlTarget a = .outLen) ∨
    (a = 0x00020 ∧ controlTarget a = .result) ∨ controlTarget a = .unmapped := by
  unfold controlTarget
  split <;> simp

/-- No single register is a word of the DIN window. -/
theorem controlTarget_ne_din (a j : Nat) : controlTarget a ≠ .din j := by
  unfold controlTarget
  split <;> simp

theorem targetAt_control (max : Nat) {a : Nat} (h : a < 0x00030) : targetAt max a = controlTarget a := if_pos h

/-- Everything an aligned offset can select, and where. -/
theorem targetAt_cases (max a : Nat) :
    (a < 0x00030 ∧ targetAt max a = controlTarget a) ∨
    (0x00030 ≤ a ∧ a < 0x00040 ∧ ∃ j, targetAt max a = .key j ∧ j.val = (a - 0x00030) / 4) ∨
    (0x00040 ≤ a ∧ a < 0x00050 ∧ ∃ j, targetAt max a = .iv j ∧ j.val = (a - 0x00040) / 4) ∨
    (0x00100 ≤ a ∧ a < 0x001B0 ∧ ∃ i, targetAt max a = .rk i ∧ i.val = (a - 0x00100) / 4) ∨
    (0x10000 ≤ a ∧ a < 0x10000 + max ∧ targetAt max a = .din ((a - 0x10000) / 4)) ∨
    (0x20000 ≤ a ∧ a < 0x20000 + max ∧ targetAt max a = .dout ((a - 0x20000) / 4)) ∨
    targetAt max a = .unmapped := by
  unfold targetAt
  by_cases h0 : a < 0x00030
  · exact .inl ⟨h0, if_pos h0⟩
  rw [if_neg h0]
  by_cases h1 : 0x00030 ≤ a ∧ a < 0x00040
  · exact .inr (.inl ⟨h1.1, h1.2, _, dif_pos h1, rfl⟩)
  rw [dif_neg h1]
  by_cases h2 : 0x00040 ≤ a ∧ a < 0x00050
  · exact .inr (.inr (.inl ⟨h2.1, h2.2, _, dif_pos h2, rfl⟩))
  rw [dif_neg h2]
  by_cases h3 : 0x00100 ≤ a ∧ a < 0x001B0
  · exact .inr (.inr (.inr (.inl ⟨h3.1, h3.2, _, dif_pos h3, rfl⟩)))
  rw [dif_neg h3]
  by_cases h4 : 0x10000 ≤ a ∧ a < 0x10000 + max
  · exact .inr (.inr (.inr (.inr (.inl ⟨h4.1, h4.2, if_pos h4⟩))))
  rw [if_neg h4]
  by_cases h5 : 0x20000 ≤ a ∧ a < 0x20000 + max
  · exact .inr (.inr (.inr (.inr (.inr (.inl ⟨h5.1, h5.2, if_pos h5⟩)))))
  rw [if_neg h5]
  exact .inr (.inr (.inr (.inr (.inr (.inr rfl)))))

/-- Outside every region, an offset past the single registers is unmapped. -/
theorem targetAt_unmapped {max a : Nat} (h0 : 0x00050 ≤ a) (h1 : a < 0x00100 ∨ 0x001B0 ≤ a)
    (h2 : a < 0x10000 ∨ 0x10000 + max ≤ a) (h3 : a < 0x20000 ∨ 0x20000 + max ≤ a) : targetAt max a = .unmapped := by
  unfold targetAt
  rw [if_neg (by omega), dif_neg (by omega), dif_neg (by omega), dif_neg (by omega), if_neg (by omega),
    if_neg (by omega)]

/-- A word of a buffer's window lies inside the buffer. -/
theorem targetAt_din_bound {max a j : Nat} (h : targetAt max (a * 4) = .din j) (hmax : max % 4 = 0) :
    4 * j + 4 ≤ max := by
  rcases targetAt_cases max (a * 4) with ⟨_, e⟩ | ⟨_, _, _, e, _⟩ | ⟨_, _, _, e, _⟩ | ⟨_, _, _, e, _⟩ | ⟨h1, h2, e⟩ |
    ⟨_, _, e⟩ | e <;> rw [e] at h
  · exact absurd h (controlTarget_ne_din _ _)
  all_goals first | (cases h; done) | (cases h; omega)

end Sys2Proof.Machine
end

