-- ==== Sys2Proof/Tests/Slice0.lean ====
section
/-! SUPPORT. The model's own tests: well-formedness, decoding, one step of each command with the vectors of
95_test_vectors.md, the host's accesses; and for every statement with hypotheses a witness that meets them. -/

open Sys2Proof Sys2Proof.Machine Sys2Proof.Stated

namespace Sys2Proof.Tests

-- One theorem at a time: many kernel evaluations at once need more thread stacks than the memory limit gives.
set_option Elab.async false

/-! ## Helpers -/

/-- A field of the next state, if there is one. -/
def after {α : Type} (o : Host.Outcome State Fault Refusal) (f : State → α) : Option α :=
  match o with
  | .next t => some (f t)
  | .fault _ => none
  | .refused _ => none

/-- The step that runs the command word `w`, issued in the state `s`. -/
def ran (s : State) (w : Word) : Host.Outcome State Fault Refusal := step (s.issueNext w)

/-- A RAM that holds a byte sequence from location 0 on. -/
def holding (l : List Byte) : Memory := Memory.writeBytes [] 0 l

/-- A RAM that holds one block, written as its 128-bit number. -/
def block (n : BitVec 128) : Memory := holding (bytes128 n).bytes

/-- After reset, with DIN holding one block. -/
def withBlock (n : BitVec 128) : State := { State.reset with din := block n }

/-- After reset, KEY written and expanded, with DIN holding one block. -/
def keyed (key din : BitVec 128) : State :=
  { withBlock din with key := bytes128 key, rk := some (keyExpansion (bytes128 key)), keyValid := true }

/-- After reset, KEY, IV and LEN written, with DIN holding a message. -/
def message (key iv : BitVec 128) (m : List Byte) : State :=
  { State.reset with key := bytes128 key, iv := bytes128 iv, len := BitVec.ofNat 32 m.length, din := holding m }

/-- What the tests of a completed command look at: DOUT, OUT_LEN and ERR. -/
def outcome (t : State) : Memory × Word × BitVec 4 := (t.dout, t.outLen, t.err)

/-- After reset, IDLE, with one coming event. -/
def idleWith (e : Event) : State := { State.reset with events := [e] }

/-- BUSY with a NOP, with one coming event. -/
def busyWith (e : Event) : State := { State.reset.issue 0 with events := [e] }

/-- BUSY with the command word `w`, the engine's turn coming next. -/
def issued (w : Word) : State := State.reset.issueNext w

/-- After reset, with KEY_LEN and LEN written. -/
def lengths (keyLen : Byte) (len : Word) : State := { State.reset with keyLen := keyLen, len := len }

/-! ## Well-formedness: the one check there is refuses (30_encoding.md R104) -/

theorem test_wellFormed_refuses_round_key_11 :
    rndInRange 11 = false ∧ (Instr.addRoundKey 11).wellFormed = false ∧ (Instr.addRoundKey 15).wellFormed = false := by
  decide

theorem test_wellFormed_accepts_round_key_10 : (Instr.addRoundKey 10).wellFormed = true := by decide

/-! ## Decoding: words written out field by field from R100 and R101: A, B, [15:12], RND, [7:5], OP -/

theorem test_decode_general :
    decode (0#8 ++ 0#8 ++ 0#4 ++ 0#4 ++ 0#3 ++ 0b00000#5) = .ok .nop ∧
    decode (0#8 ++ 0#8 ++ 0#4 ++ 0#4 ++ 0#3 ++ 0b00001#5) = .ok .setkey ∧
    decode (0#8 ++ 0#8 ++ 0#4 ++ 0#4 ++ 0#3 ++ 0b00010#5) = .ok .encBlock ∧
    decode (0#8 ++ 0#8 ++ 0#4 ++ 0#4 ++ 0#3 ++ 0b00011#5) = .ok .decBlock ∧
    decode (0x57#8 ++ 0x83#8 ++ 0#4 ++ 0#4 ++ 0#3 ++ 0b01011#5) = .ok (.gfmul 0x57 0x83) := by decide

theorem test_decode_modes :
    decode (0#8 ++ 0#8 ++ 0#4 ++ 0#4 ++ 0#3 ++ 0b00100#5) = .ok .cbcEnc ∧
    decode (0#8 ++ 0#8 ++ 0#4 ++ 0#4 ++ 0#3 ++ 0b00101#5) = .ok .cbcDec ∧
    decode (0#8 ++ 0#8 ++ 0#4 ++ 0#4 ++ 0#3 ++ 0b00110#5) = .ok .ctrEnc ∧
    decode (0#8 ++ 0#8 ++ 0#4 ++ 0#4 ++ 0#3 ++ 0b00111#5) = .ok .ctrDec ∧
    decode (0#8 ++ 0#8 ++ 0#4 ++ 0#4 ++ 0#3 ++ 0b01000#5) = .ok .pad ∧
    decode (0#8 ++ 0#8 ++ 0#4 ++ 0#4 ++ 0#3 ++ 0b01001#5) = .ok .unpad ∧
    decode (0#8 ++ 0#8 ++ 0#4 ++ 0#4 ++ 0#3 ++ 0b01010#5) = .ok .ctrInc := by decide

theorem test_decode_rounds :
    decode (0#8 ++ 0#8 ++ 0#4 ++ 0#4 ++ 0#3 ++ 0b10000#5) = .ok .subBytes ∧
    decode (0#8 ++ 0#8 ++ 0#4 ++ 0#4 ++ 0#3 ++ 0b10001#5) = .ok .invSubBytes ∧
    decode (0#8 ++ 0#8 ++ 0#4 ++ 0#4 ++ 0#3 ++ 0b10010#5) = .ok .shiftRows ∧
    decode (0#8 ++ 0#8 ++ 0#4 ++ 0#4 ++ 0#3 ++ 0b10011#5) = .ok .invShiftRows ∧
    decode (0#8 ++ 0#8 ++ 0#4 ++ 0#4 ++ 0#3 ++ 0b10100#5) = .ok .mixColumns ∧
    decode (0#8 ++ 0#8 ++ 0#4 ++ 0#4 ++ 0#3 ++ 0b10101#5) = .ok .invMixColumns ∧
    decode (0#8 ++ 0#8 ++ 0#4 ++ 0b1010#4 ++ 0#3 ++ 0b10110#5) = .ok (.addRoundKey 10) := by decide

/-- The Illegal words of T-E1, each refused under the name of its rule. -/
theorem test_decode_illegal :
    decode 0x00000B16 = .error .rndOutOfRange ∧ decode 0x0000010B = .error .rndNotZero ∧
    decode 0x01000002 = .error .operandNotZero ∧ decode 0x00000020 = .error .reservedBits ∧
    decode 0x00001001 = .error .reservedBits ∧ decode 0x0000000C = .error .reservedOpcode ∧
    decode 0x0000001F = .error .reservedOpcode := by decide

/-- The words of R109's encodings. -/
theorem test_encode_operands :
    encode (.gfmul 0x57 0x83) = 0x5783000B ∧ encode (.addRoundKey 10) = 0x00000A16 ∧ encode .invMixColumns = 0x15 := by
  decide

theorem test_decodeTableWord : decodeTableWord 32 0x5783000B = some (.gfmul 0x57 0x83) ∧
    decodeTableWord 32 0x0000001F = none := by decide

/-! ## One step of each command (95_test_vectors.md) -/

/-- T-E2: after a successful command with KEY_VALID = 0. -/
theorem test_nop_status : after (ran State.reset 0x00000000) (fun t => (t.statusWord, t.outLen)) = some (2, 0) := by
  decide

/-- T-K1: RK4 and RK43, and T-E2's STATUS. -/
theorem test_setkey_schedule :
    after (ran (message 0x2b7e151628aed2a6abf7158809cf4f3c 0 []) 0x00000001)
      (fun t => (t.schedule[4], t.schedule[43], t.statusWord)) = some (0xa0fafe17, 0xb6630ca6, 0x00000006) := by
  decide +kernel

/-- T-K4: KEY_LEN 15 clears KEY_VALID and leaves RK. -/
theorem test_setkey_wrong_length :
    after (ran { keyed 0 0 with keyLen := 15 } 0x00000001) (fun t => (t.statusWord, t.rk)) =
      some (0x00000102, (keyed 0 0).rk) := by
  decide +kernel

/-- T-C7, first row. -/
theorem test_encBlock :
    after (ran (keyed 0x000102030405060708090a0b0c0d0e0f 0x00112233445566778899aabbccddeeff) 0x00000002) outcome =
      some (block 0x69c4e0d86a7b0430d8cdb78070b4c55a, 16, 0) := by
  decide +kernel

/-- T-C7, last row, with the STATUS of T-E2. -/
theorem test_encBlock_noKey :
    after (ran (withBlock 0) 0x00000002) (fun t => (outcome t, t.statusWord)) = some (([], 0, 4), 0x00000402) := by
  decide

/-- T-C7, second row. -/
theorem test_decBlock :
    after (ran (keyed 0x000102030405060708090a0b0c0d0e0f 0x69c4e0d86a7b0430d8cdb78070b4c55a) 0x00000003) outcome =
      some (block 0x00112233445566778899aabbccddeeff, 16, 0) := by
  decide +kernel

/-- T-M1, second row. -/
theorem test_cbcEnc :
    after (ran (message 0x2b7e151628aed2a6abf7158809cf4f3c 0x000102030405060708090a0b0c0d0e0f
        (bytes128 0x6bc1bee22e409f96e93d7e117393172a).bytes) 0x00000004) outcome =
      some (holding ((bytes128 0x7649abac8119b246cee98e9b12e9197d).bytes ++
        (bytes128 0x8964e0b149c10b7b682e6e39aaeb731c).bytes), 32, 0) := by
  decide +kernel

/-- T-M3: LEN = 0xFFFFFFF8 does not wrap; T-K4: a wrong key length comes first. -/
theorem test_cbcEnc_errors :
    after (ran (lengths 16 0xFFFFFFF8) 0x00000004) (fun t => (t.err, t.keyValid)) = some (5, true) ∧
    after (ran (lengths 15 5000) 0x00000004) (fun t => (t.err, t.keyValid)) = some (1, false) := by
  decide +kernel

/-- T-M1, second row backwards. -/
theorem test_cbcDec :
    after (ran (message 0x2b7e151628aed2a6abf7158809cf4f3c 0x000102030405060708090a0b0c0d0e0f
        ((bytes128 0x7649abac8119b246cee98e9b12e9197d).bytes ++
          (bytes128 0x8964e0b149c10b7b682e6e39aaeb731c).bytes)) 0x00000005) outcome =
      some (block 0x6bc1bee22e409f96e93d7e117393172a, 16, 0) := by
  decide +kernel

/-- T-L5 and T-M2: LEN 17 is InvalidLength with the key loaded; LEN 4097 is CapacityExceeded. -/
theorem test_cbcDec_errors :
    after (ran (lengths 16 17) 0x00000005) (fun t => (t.statusWord, t.outLen)) = some (0x00000206, 0) ∧
    after (ran (lengths 16 4097) 0x00000005) (fun t => (t.err, t.keyValid)) = some (5, true) := by
  decide +kernel

/-- T-M5, the first 17 bytes: a short last chunk. -/
theorem test_ctrEnc :
    after (ran (message 0x2b7e151628aed2a6abf7158809cf4f3c 0xf0f1f2f3f4f5f6f7f8f9fafbfcfdfeff
        ((bytes128 0x6bc1bee22e409f96e93d7e117393172a).bytes ++ [0xae])) 0x00000006) outcome =
      some (holding ((bytes128 0x874d6191b620e3261bef6864990db6ce).bytes ++ [0x98]), 17, 0) := by
  decide +kernel

/-- T-M9: the counter wraps inside one command, and IV stays. -/
theorem test_ctrEnc_wraps :
    after (ran (message 0x2b7e151628aed2a6abf7158809cf4f3c 0xffffffffffffffffffffffffffffffff
        (List.replicate 32 0)) 0x00000006) (fun t => (t.dout, t.iv)) =
      some (holding ((bytes128 0x8af2860142f786f409307c1a3f7eaaac).bytes ++
        (bytes128 0x7df76b0c1ab899b33e42f047b91b546f).bytes), bytes128 0xffffffffffffffffffffffffffffffff) := by
  decide +kernel

/-- T-M6, on the 5-byte row of T-M5. -/
theorem test_ctrDec :
    after (ran (message 0x2b7e151628aed2a6abf7158809cf4f3c 0xf0f1f2f3f4f5f6f7f8f9fafbfcfdfeff
        [0x87, 0x4d, 0x61, 0x91, 0xb6]) 0x00000007) outcome =
      some (holding [0x6b, 0xc1, 0xbe, 0xe2, 0x2e], 5, 0) := by
  decide +kernel

/-- T-M10, the first two rows. -/
theorem test_pad :
    after (ran (message 0 0 []) 0x00000008) outcome = some (block 0x10101010101010101010101010101010, 16, 0) ∧
    after (ran (message 0 0 [0x61, 0x62, 0x63]) 0x00000008) outcome =
      some (block 0x6162630d0d0d0d0d0d0d0d0d0d0d0d0d, 16, 0) := by
  decide +kernel

/-- T-M3: PAD of 4096 bytes does not fit. -/
theorem test_pad_capacity : after (ran (lengths 16 4096) 0x00000008) outcome = some ([], 0, 5) := by decide

/-- T-L3, the accepted rows 1 and 4. -/
theorem test_unpad :
    after (ran (message 0 0 (bytes128 0x6162630d0d0d0d0d0d0d0d0d0d0d0d0d).bytes) 0x00000009) outcome =
      some (holding [0x61, 0x62, 0x63], 3, 0) ∧
    after (ran (message 0 0 [0x41, 0x42, 0x02, 0x02]) 0x00000009) outcome = some (holding [0x41, 0x42], 2, 0) := by
  decide +kernel

/-- T-L3, all six refused rows. -/
theorem test_unpad_refuses :
    ∀ m ∈ ([[], (bytes128 0x000102030405060708090a0b0c0d0e00).bytes,
        (bytes128 0x000102030405060708090a0b0c0d0e11).bytes, (bytes128 0x000102030405060708090a0b0c0d0eff).bytes,
        (bytes128 0x6162630d0d0d0d0d0d0d0d0d0d0d0c0d).bytes, [0x03, 0x03]] : List (List Byte)),
      after (ran (message 0 0 m) 0x00000009) outcome = some ([], 0, 3) := by
  decide +kernel

/-- T-M8, rows 1, 2 and 4. -/
theorem test_ctrInc :
    after (ran { State.reset with iv := bytes128 0xffffffffffffffffffffffffffffffff } 0x0A) (·.iv) =
      some (bytes128 0) ∧
    after (ran { State.reset with iv := bytes128 0xffffffff } 0x0A) (·.iv) = some (bytes128 0x100000000) ∧
    after (ran { State.reset with iv := bytes128 0xf0f1f2f3f4f5f6f7f8f9fafbfcfdfeff } 0x0A) (·.iv) =
      some (bytes128 0xf0f1f2f3f4f5f6f7f8f9fafbfcfdff00) := by
  decide

/-- T-F1: A is the high byte of the word. -/
theorem test_gfmul :
    after (ran State.reset 0x5783000B) (·.result) = some 0xc1 ∧
    after (ran State.reset 0x8002000B) (·.result) = some 0x1b ∧
    after (ran State.reset 0x0240000B) (·.result) = some 0x80 ∧
    after (ran State.reset 0x53CA000B) (·.result) = some 0x01 := by
  decide

/-- T-C1. -/
theorem test_subBytes : after (ran (withBlock 0x00112233445566778899aabbccddeeff) 0x10) outcome =
    some (block 0x638293c31bfc33f5c4eeacea4bc12816, 16, 0) := by decide +kernel

/-- T-C2. -/
theorem test_invSubBytes : after (ran (withBlock 0x00112233445566778899aabbccddeeff) 0x11) outcome =
    some (block 0x52e3946686edd30297f962fe27c9997d, 16, 0) := by decide +kernel

/-- T-C3. -/
theorem test_shiftRows : after (ran (withBlock 0x000102030405060708090a0b0c0d0e0f) 0x12) outcome =
    some (block 0x00050a0f04090e03080d02070c01060b, 16, 0) := by decide +kernel

/-- T-C4. -/
theorem test_invShiftRows : after (ran (withBlock 0x000102030405060708090a0b0c0d0e0f) 0x13) outcome =
    some (block 0x000d0a0704010e0b0805020f0c090603, 16, 0) := by decide +kernel

/-- T-C5, the first row. -/
theorem test_mixColumns : after (ran (withBlock 0xdb135345f20a225c01010101c6c6c6c6) 0x14) outcome =
    some (block 0x8e4da1bc9fdc589d01010101c6c6c6c6, 16, 0) := by decide +kernel

/-- T-C5, the second row backwards. -/
theorem test_invMixColumns : after (ran (withBlock 0x046681e5e0cb199a48f8d37a2806264c) 0x15) outcome =
    some (block 0xd4bf5d30e0b452aeb84111f11e2798e5, 16, 0) := by decide +kernel

/-- T-C6, RND = 10. -/
theorem test_addRoundKey :
    after (ran (keyed 0x000102030405060708090a0b0c0d0e0f 0x00112233445566778899aabbccddeeff) 0x00000A16) outcome =
      some (block 0x13003f4ca7c12c607b9e0d3081f6de3a, 16, 0) := by decide +kernel

/-- T-C6, RND = 11 whether or not KEY_VALID is 1; RND = 0 without a key. -/
theorem test_addRoundKey_errors :
    after (ran (keyed 0 0) 0x00000B16) (·.err) = some 6 ∧ after (ran State.reset 0x00000B16) (·.err) = some 6 ∧
    after (ran State.reset 0x00000016) (·.err) = some 4 := by decide +kernel

/-- T-E1: an Illegal word after reset. -/
theorem test_illegal_status : after (ran State.reset 0x00000020) (·.statusWord) = some 0x00000602 := by decide

/-- A word of the opcode table placed by withFetchWord is what the very next step runs. -/
theorem test_withFetchWord : after (step (State.reset.withFetchWord 32 0x5783000B)) (·.result) = some 0xc1 := by decide

/-! ## The host's accesses and reset -/

/-- T-E4, T-E2: ID and STATUS read while BUSY. -/
theorem test_reads_while_busy :
    after (step (busyWith (.busRead 0x00000))) (·.readData) = some 0x41455331 ∧
    after (step (busyWith (.busRead 0x0000C))) (·.readData) = some 0x00000001 := by decide

/-- T-E3: a write while BUSY is dropped and sets BUSY_WR; while IDLE it takes effect. -/
theorem test_write_iv0 :
    after (step (busyWith (.busWrite 0x00040 0x12345678))) (fun t => (t.iv, t.busyWr)) = some (zeroBlock, true) ∧
    after (step (idleWith (.busWrite 0x00040 0x12345678))) (fun t => (int128 t.iv, t.busyWr)) =
      some (0x12345678000000000000000000000000, false) := by decide

/-- T-E2: W1C of DONE leaves ERR; T-E3: DONE and BUSY_WR cleared together. -/
theorem test_status_w1c :
    after (step { idleWith (.busWrite 0x0000C 2) with done := true, err := 4 }) (·.statusWord) = some 0x00000400 ∧
    after (step { idleWith (.busWrite 0x0000C 0xA) with done := true, busyWr := true }) (·.statusWord) = some 0 := by
  decide

/-- R73: the most significant byte of a DIN word is the lowest location. -/
theorem test_din_write :
    after (step (idleWith (.busWrite 0x10004 0x44556677))) (·.din) =
      some [(4, 0x44), (5, 0x55), (6, 0x66), (7, 0x77)] := by decide

/-- R330, R331: a reset ends a running command. -/
theorem test_reset_event :
    after (step { busyWith .reset with keyLen := 3, ie := true, result := 5 })
      (fun t => (t.phase, t.keyLen, t.ie, t.result, t.irq)) = some (.idle, 16, false, 0, false) := by decide

/-! ## Witnesses: for each statement with hypotheses, states and operands that meet them together -/

/-- Without an event of its own, the machine's next event is the engine's turn. -/
theorem witness_engineNext (w : Word) : EngineNext (issued w) := .inr rfl

theorem witness_DecodeOfEncodeIsIdentity :
    (Instr.addRoundKey 10).wellFormed = true ∧ (Instr.gfmul 0xFF 0xFF).wellFormed = true := by decide

theorem witness_DecodedWordIsItsEncoding :
    decode 0xFFFF000B = .ok (.gfmul 0xFF 0xFF) ∧ decode 0x00000A16 = .ok (.addRoundKey 10) := by decide

/-- Both ends of each range of legal words, and the words just outside. -/
theorem witness_LegalWordsAreExactlyTheListed :
    decode 0x0A = .ok .ctrInc ∧ decode 0x10 = .ok .subBytes ∧ decode 0x15 = .ok .invMixColumns ∧
    decode 0x16 = .ok (.addRoundKey 0) ∧ decode 0x0000000B = .ok (.gfmul 0 0) ∧
    decode 0x0F = .error .reservedOpcode ∧ decode 0x17 = .error .reservedOpcode := by decide

/-- One word for each of the six reasons, at the ends of their ranges. -/
theorem witness_IllegalWordCompletesWithCodeSix :
    ∀ n ∈ ([0x0C, 0x1F, 0x20, 0x80, 0x1000, 0x8000, 0xB16, 0xF16, 0x100, 0x10000, 0x80000000] : List Nat),
      let w : Word := BitVec.ofNat 32 n
      (issued w).phase = .busy ∧ EngineNext (issued w) ∧
      ((issued w).cmdq.extractLsb' 0 5 ∈ ([0x0C, 0x0D, 0x0E, 0x0F, 0x17, 0x18, 0x19, 0x1A, 0x1B, 0x1C, 0x1D, 0x1E,
          0x1F] : List (BitVec 5)) ∨
        (issued w).cmdq.extractLsb' 5 3 ≠ 0 ∨ (issued w).cmdq.extractLsb' 12 4 ≠ 0 ∨
        ((issued w).cmdq.extractLsb' 0 5 = 0x16 ∧ 10 < ((issued w).cmdq.extractLsb' 8 4).toNat) ∨
        ((issued w).cmdq.extractLsb' 0 5 ≠ 0x16 ∧ (issued w).cmdq.extractLsb' 8 4 ≠ 0) ∨
        ((issued w).cmdq.extractLsb' 0 5 ≠ 0x0B ∧
          ((issued w).cmdq.extractLsb' 16 8 ≠ 0 ∨ (issued w).cmdq.extractLsb' 24 8 ≠ 0))) := by
  intro n hn
  refine ⟨rfl, .inr rfl, ?_⟩
  revert n
  decide

theorem witness_StepRunsTheDecodedCommand :
    (issued 0x5783000B).phase = .busy ∧ EngineNext (issued 0x5783000B) ∧
    decode (issued 0x5783000B).cmdq = .ok (.gfmul 0x57 0x83) := ⟨rfl, .inr rfl, by decide⟩

theorem witness_CmdWriteIssuesOnlyWhileIdle :
    (WriteNext (idleWith (.busWrite 0x00008 2)) 0x00008 2 ∧ (idleWith (.busWrite 0x00008 2)).phase = .idle) ∧
    (WriteNext (busyWith (.busWrite 0x00008 2)) 0x00008 2 ∧ (busyWith (.busWrite 0x00008 2)).phase = .busy) :=
  ⟨⟨⟨by decide, rfl⟩, rfl⟩, ⟨by decide, rfl⟩, rfl⟩

theorem witness_IssuedCommandCompletesOnce :
    (busyWith (.busRead 0x0000C)).phase = .busy ∧ .reset ∉ (busyWith (.busRead 0x0000C)).events := by decide

theorem witness_InputsStayAsAtIssue :
    (busyWith (.busWrite 0x00040 1)).phase = .busy ∧ 1 ≤ (busyWith (.busWrite 0x00040 1)).events.length ∧
    (∀ e ∈ (busyWith (.busWrite 0x00040 1)).events.take 1, (∃ a, e = .busRead a) ∨ ∃ a v, e = .busWrite a v) ∧
    ∃ t : State, Host.Core.run Sys2Proof.core 1 (busyWith (.busWrite 0x00040 1)) = .next t := by
  refine ⟨rfl, by decide, fun e he => ?_, ?_⟩
  · cases List.mem_singleton.mp he
    exact .inr ⟨_, _, rfl⟩
  · obtain ⟨u, hu⟩ := step_next (busyWith (.busWrite 0x00040 1))
    exact ⟨u, run_succ 0 hu⟩

theorem witness_CommandsWriteOnlyTheirRegisters :
    exec .nop State.reset = .next (State.reset.finish []) ∧ (∀ a b, Instr.nop ≠ .gfmul a b) ∧
    Instr.nop ≠ .ctrInc ∧ expandsKey .nop = false := ⟨rfl, by simp, by decide, rfl⟩

theorem witness_OnlyTheOutputBytesAreWritten :
    State.reset.config.Legal ∧ exec .subBytes State.reset = .next (State.reset.mapBlock subBytes) :=
  ⟨by decide, rfl⟩

/-- NoKey; InvalidLength after KeyLoad; InvalidKeyLength. -/
theorem witness_FailedCommandsArePrecise :
    (∃ t, exec .encBlock State.reset = .next t ∧ t.err ≠ 0 ∧ expandsKey .encBlock = false) ∧
    (∃ t, exec .cbcDec (lengths 16 17) = .next t ∧ t.err ≠ 0 ∧ expandsKey .cbcDec = true ∧
      (lengths 16 17).keyLen = 16) ∧
    (∃ t, exec .setkey (lengths 17 0) = .next t ∧ t.err ≠ 0 ∧ expandsKey .setkey = true ∧
      (lengths 17 0).keyLen ≠ 16) :=
  ⟨⟨_, exec_eq_complete _ _, by decide +kernel, rfl⟩, ⟨_, exec_eq_complete _ _, by decide +kernel, rfl, rfl⟩,
    _, exec_eq_complete _ _, by decide +kernel, rfl, by decide⟩

theorem witness_SetkeyExpandsTheKey : State.reset.keyLen = 16 := rfl

theorem witness_WrongKeyLengthComesFirst :
    (expandsKey .setkey = true ∧ (lengths 15 0).keyLen ≠ 16) ∧
    (expandsKey .cbcEnc = true ∧ (lengths 15 5000).keyLen ≠ 16) ∧
    (expandsKey .cbcDec = true ∧ (lengths 0 17).keyLen ≠ 16) ∧
    (expandsKey .ctrEnc = true ∧ (lengths 17 0).keyLen ≠ 16) ∧
    (expandsKey .ctrDec = true ∧ (lengths 255 0).keyLen ≠ 16) := by decide

theorem witness_BlockCommandsEncryptAndDecrypt :
    (keyed 0 7).keyValid = true ∧ ∀ k < 16, (bytes128 7).byte k = (keyed 0 7).dinByte k := by decide

theorem witness_NoKeyIsRefused :
    (Instr.encBlock = .encBlock ∨ Instr.encBlock = .decBlock ∨
      ∃ rnd, Instr.encBlock = .addRoundKey rnd ∧ rnd.toNat ≤ 10) ∧
    (Instr.decBlock = .encBlock ∨ Instr.decBlock = .decBlock ∨
      ∃ rnd, Instr.decBlock = .addRoundKey rnd ∧ rnd.toNat ≤ 10) ∧
    (Instr.addRoundKey 10 = .encBlock ∨ Instr.addRoundKey 10 = .decBlock ∨
      ∃ rnd, Instr.addRoundKey 10 = .addRoundKey rnd ∧ rnd.toNat ≤ 10) ∧
    State.reset.keyValid = false :=
  ⟨.inl rfl, .inr (.inl rfl), .inr (.inr ⟨10, rfl, by decide⟩), rfl⟩

theorem witness_AddRoundKeyXorsTheRoundKey :
    (keyed 0 7).keyValid = true ∧ (0 : BitVec 4).toNat ≤ 10 ∧ (10 : BitVec 4).toNat ≤ 10 := by decide

theorem witness_AddRoundKeyRangeIsCheckedBeforeTheKey :
    10 < (11 : BitVec 4).toNat ∧ 10 < (15 : BitVec 4).toNat := by decide

/-- The empty message, and the longest ones T-M3 lets PAD take. -/
theorem witness_PadAppendsItsLength : ∀ n ∈ ([0, 4080, 4095] : List Nat),
    let s := lengths 16 (BitVec.ofNat 32 n)
    s.len.toNat + padCount s.len.toNat ≤ s.config.maxMsgBytes := by decide

/-- T-L3: an accepted message of one byte, and the empty message. -/
theorem witness_UnpadStripsOnlyValidPadding :
    ((message 0 0 [0x01]).len.toNat ≤ 4096 ∧ PaddingValid (message 0 0 [0x01]).dinByte 1) ∧
    ((message 0 0 []).len.toNat ≤ 4096 ∧ ¬ PaddingValid (message 0 0 []).dinByte 0) := by
  refine ⟨⟨by decide, by decide, by decide, by decide, by decide, fun k _ h => ?_⟩, by decide, fun h => ?_⟩
  · have hk : k = 0 := by omega
    subst hk; rfl
  · exact absurd h.1 (by decide)

/-- T-M1, third row: the one block of the empty message's padding. -/
theorem witness_CbcEncChainsTheBlocks :
    let s := message 0x2b7e151628aed2a6abf7158809cf4f3c 0x000102030405060708090a0b0c0d0e0f []
    s.keyLen = 16 ∧ s.len.toNat + padCount s.len.toNat ≤ s.config.maxMsgBytes ∧
    16 * 0 < s.len.toNat + padCount s.len.toNat ∧
    ∀ k < 16, (bytes128 0x101112131415161718191a1b1c1d1e1f).byte k =
      paddedByte s s.len.toNat (16 * 0 + k) ^^^ (if 0 = 0 then s.iv.byte k else s.doutByte k) := by
  decide +kernel

/-- What CBC_DEC computes from the one ciphertext block in DIN, before the padding is looked at. -/
def rawPlaintext (s : State) (k : Nat) : Byte :=
  (invCipher (keyExpansion s.key) s.dinBlock).byte k ^^^ s.iv.byte k

/-- The premise on `raw` of the CBC_DEC statement, for a message of one block. -/
theorem rawPlaintext_spec {s : State} (h : s.len.toNat = 16) (j : Nat) (x : Block) (hj : 16 * j < s.len.toNat)
    (hx : ∀ k < 16, x.byte k = s.dinByte (16 * j + k)) (k : Nat) (_ : k < 16) :
    rawPlaintext s (16 * j + k) = (invCipher (keyExpansion s.key) x).byte k ^^^
      (if j = 0 then s.iv.byte k else s.dinByte (16 * (j - 1) + k)) := by
  have hj0 : j = 0 := by omega
  subst hj0
  have hxb : x = s.dinBlock := Block.ext_byte fun k hk => by
    rw [hx k hk, dinBlock_byte s hk, Nat.mul_zero, Nat.zero_add]
  rw [hxb, if_pos rfl, Nat.mul_zero, Nat.zero_add]
  rfl

/-- T-M1, third row: a full block of padding. -/
def cbcValid : State := message 0x2b7e151628aed2a6abf7158809cf4f3c 0x000102030405060708090a0b0c0d0e0f
  (bytes128 0xc84af0b613435d5d9182801a9bd9320b).bytes

/-- T-K1's ciphertext, whose plaintext ends in 0x34. -/
def cbcInvalid : State := message 0x2b7e151628aed2a6abf7158809cf4f3c 0
  (bytes128 0x3925841d02dc09fbdc118597196a0b32).bytes

theorem cbc_conditions :
    (cbcValid.keyLen = 16 ∧ cbcValid.len.toNat ≤ cbcValid.config.maxMsgBytes ∧ cbcValid.len.toNat = 16) ∧
    (cbcInvalid.keyLen = 16 ∧ cbcInvalid.len.toNat ≤ cbcInvalid.config.maxMsgBytes ∧ cbcInvalid.len.toNat = 16) := by
  decide

theorem cbcValid_raw : ∀ k < 16, rawPlaintext cbcValid k = 0x10 := by decide +kernel

theorem cbcInvalid_raw : rawPlaintext cbcInvalid 15 = 0x34 := by decide +kernel

/-- Valid and invalid padding, each with every premise of the statement. -/
theorem witness_CbcDecUnpadsTheRawPlaintext :
    (∀ s ∈ [cbcValid, cbcInvalid], s.keyLen = 16 ∧ s.len.toNat ≤ s.config.maxMsgBytes ∧ s.len.toNat ≠ 0 ∧
      s.len.toNat % 16 = 0 ∧
      ∀ (j : Nat) (x : Block), 16 * j < s.len.toNat → (∀ k < 16, x.byte k = s.dinByte (16 * j + k)) →
        ∀ k < 16, rawPlaintext s (16 * j + k) = (invCipher (keyExpansion s.key) x).byte k ^^^
          (if j = 0 then s.iv.byte k else s.dinByte (16 * (j - 1) + k))) ∧
    PaddingValid (rawPlaintext cbcValid) cbcValid.len.toNat ∧
    ¬ PaddingValid (rawPlaintext cbcInvalid) cbcInvalid.len.toNat := by
  obtain ⟨⟨k1, c1, h1⟩, k2, c2, h2⟩ := cbc_conditions
  refine ⟨fun s hs => ?_, ?_, fun h => ?_⟩
  · simp only [List.mem_cons, List.not_mem_nil, or_false] at hs
    rcases hs with rfl | rfl
    · exact ⟨k1, c1, by omega, by omega, rawPlaintext_spec h1⟩
    · exact ⟨k2, c2, by omega, by omega, rawPlaintext_spec h2⟩
  · rw [PaddingValid, h1, cbcValid_raw 15 (by decide)]
    exact ⟨by decide, by decide, by decide, by decide, fun k _ hk => cbcValid_raw k hk⟩
  · have := h.2.2.1
    rw [h2, cbcInvalid_raw] at this
    exact absurd this (by decide)

theorem witness_CbcDecNeedsWholeBlocks : ∀ n ∈ ([0, 1, 15, 17, 4095] : List Nat),
    let s := lengths 16 (BitVec.ofNat 32 n)
    s.keyLen = 16 ∧ s.len.toNat ≤ s.config.maxMsgBytes ∧ (s.len.toNat = 0 ∨ s.len.toNat % 16 ≠ 0) := by decide

/-- The longest message, and its last byte's counter under a nonce of ones, which wraps. -/
theorem witness_CtrCommandsXorTheKeystream :
    let s := { lengths 16 4096 with iv := bytes128 0xffffffffffffffffffffffffffffffff }
    s.keyLen = 16 ∧ s.len.toNat ≤ s.config.maxMsgBytes ∧ 4095 < s.len.toNat ∧
    (int128 (bytes128 254)).toNat = ((int128 s.iv).toNat + 4095 / 16) % 2 ^ 128 := by decide +kernel

theorem witness_OversizedMessagesAreRefused :
    ((lengths 16 4096).keyLen = 16 ∧ 4096 < (lengths 16 4096).len.toNat + padCount (lengths 16 4096).len.toNat) ∧
    4096 < (lengths 16 0xFFFFFFF8).len.toNat + padCount (lengths 16 0xFFFFFFF8).len.toNat ∧
    ((lengths 16 4097).keyLen = 16 ∧ (lengths 16 4097).config.maxMsgBytes < (lengths 16 4097).len.toNat) := by
  decide +kernel

/-- T-F1: 0x53 and 0xca are inverses. -/
theorem witness_GmulIsAFieldProduct : (0x53 : Byte) ≠ 0 ∧ gmul 0x53 0xca = 1 := by decide

/-- T-F3: inv(0x53) = 0xca; and the index 0, which has none. -/
theorem witness_TablesFollowTheirRules :
    (((0x53 : Byte) = 0 → (0xca : Byte) = 0) ∧ ((0x53 : Byte) ≠ 0 → gmul 0x53 0xca = 1)) ∧
    (((0 : Byte) = 0 → (0 : Byte) = 0) ∧ ((0 : Byte) ≠ 0 → gmul 0 0 = 1)) ∧ (1 ≤ 9 ∧ 9 < 10) := by decide

/-- The block after round `r` of Cipher, for r up to 9. -/
def roundsDone (w : Schedule) (b : Block) : Nat → Block
  | 0 => addRoundKey w b 0
  | r + 1 =>
    if h : r < 9 then addRoundKey w (mixColumns (shiftRows (subBytes (roundsDone w b r)))) ⟨r + 1, by omega⟩
    else roundsDone w b r

/-- The block after `n` inverse rounds of InvCipher, for n up to 9. -/
def inverseRoundsDone (w : Schedule) (b : Block) : Nat → Block
  | 0 => addRoundKey w b 10
  | n + 1 => invMixColumns (addRoundKey w (invSubBytes (invShiftRows (inverseRoundsDone w b n))) ⟨9 - n, by omega⟩)

theorem witness_CipherIsItsRounds (w : Schedule) (b : Block) :
    roundsDone w b 0 = addRoundKey w b 0 ∧
    (∀ (r : Nat) (_ : r < 9), roundsDone w b (r + 1) =
      addRoundKey w (mixColumns (shiftRows (subBytes (roundsDone w b r)))) ⟨r + 1, by omega⟩) ∧
    inverseRoundsDone w b (9 - 9) = addRoundKey w b 10 ∧
    (∀ (r : Nat) (_ : r < 9), inverseRoundsDone w b (9 - r) =
      invMixColumns (addRoundKey w (invSubBytes (invShiftRows (inverseRoundsDone w b (9 - (r + 1))))) ⟨r + 1, by omega⟩)) := by
  refine ⟨rfl, fun r hr => ?_, rfl, fun r hr => ?_⟩
  · rw [roundsDone, dif_pos hr]
  · obtain ⟨n, hn⟩ : ∃ n, 9 - r = n + 1 := ⟨8 - r, by omega⟩
    have h1 : 9 - (r + 1) = n := by omega
    have h2 : (⟨9 - n, by omega⟩ : Fin 11) = ⟨r + 1, by omega⟩ := Fin.ext (by simp only; omega)
    rw [hn, h1, inverseRoundsDone, h2]

theorem witness_UnpadUndoesPadAndFailsExactly : unpad [0x41, 0x42, 0x02, 0x02] = .ok [0x41, 0x42] := by decide

theorem witness_WriteWhileBusyOnlySetsBusyWr :
    (busyWith (.busWrite 0x3FFFC 1)).phase = .busy ∧ WriteNext (busyWith (.busWrite 0x3FFFC 1)) 0x3FFFC 1 :=
  ⟨rfl, by decide, rfl⟩

theorem witness_StatusReadsItsFieldsAndClearsOnOnes :
    ((idleWith (.busWrite 0x0000C 0xA)).phase = .idle ∧ WriteNext (idleWith (.busWrite 0x0000C 0xA)) 0x0000C 0xA) ∧
    ReadNext (busyWith (.busRead 0x0000C)) 0x0000C := ⟨⟨rfl, by decide, rfl⟩, by decide, rfl⟩

/-- The default parameters are in their range. -/
theorem defaultConfig_legal : defaultConfig.Legal := by decide

/-- The premises of every clause about a write while IDLE, at the ends of its range of offsets. -/
theorem witness_writes_while_idle : ∀ off ∈ ([0x00010, 0x00014, 0x00018, 0x00030, 0x0003C, 0x00040, 0x0004C, 0x10000,
      0x10FFC] : List Nat),
    (idleWith (.busWrite off 1)).phase = .idle ∧ WriteNext (idleWith (.busWrite off 1)) off 1 ∧
    (idleWith (.busWrite off 1)).config.Legal := by
  intro off h
  refine ⟨rfl, ⟨?_, ?_⟩, defaultConfig_legal⟩
  · revert off; decide
  · simp [idleWith, State.reset, defaultConfig]

theorem witness_ControlRegistersStoreTheirBits :
    (idleWith (.busWrite 0x00010 1)).phase = .idle ∧ WriteNext (idleWith (.busWrite 0x00010 1)) 0x00010 1 ∧
    WriteNext (idleWith (.busWrite 0x00014 1)) 0x00014 1 ∧ WriteNext (idleWith (.busWrite 0x00018 1)) 0x00018 1 :=
  ⟨rfl, (witness_writes_while_idle _ (by decide)).2.1, (witness_writes_while_idle _ (by decide)).2.1,
    (witness_writes_while_idle _ (by decide)).2.1⟩

theorem witness_KeyAndIvWordsAreBigEndian :
    (idleWith (.busWrite 0x0003C 1)).phase = .idle ∧ 3 < 4 ∧
    WriteNext (idleWith (.busWrite (0x00030 + 4 * 3) 1)) (0x00030 + 4 * 3) 1 ∧
    WriteNext (idleWith (.busWrite (0x00040 + 4 * 3) 1)) (0x00040 + 4 * 3) 1 :=
  ⟨rfl, by decide, (witness_writes_while_idle _ (by decide)).2.1, (witness_writes_while_idle _ (by decide)).2.1⟩

theorem witness_DinWriteSetsFourBytes :
    (idleWith (.busWrite 0x10FFC 1)).phase = .idle ∧ 1023 < (idleWith (.busWrite 0x10FFC 1)).config.maxMsgBytes / 4 ∧
    (idleWith (.busWrite 0x10FFC 1)).config.Legal ∧
    WriteNext (idleWith (.busWrite (0x10000 + 4 * 1023) 1)) (0x10000 + 4 * 1023) 1 :=
  ⟨rfl, by decide, by decide, (witness_writes_while_idle _ (by decide)).2.1⟩

theorem witness_ReadOnlyRegistersIgnoreWrites : ∀ off ∈ ([0x00000, 0x00007, 0x0001C, 0x00023, 0x00100, 0x001AF,
      0x20000, 0x20FFF] : List Nat),
    (idleWith (.busWrite off 1)).phase = .idle ∧ (idleWith (.busWrite off 1)).config.Legal ∧
    ReadOnlyOffset (idleWith (.busWrite off 1)).config.maxMsgBytes off ∧
    WriteNext (idleWith (.busWrite off 1)) off 1 := by
  intro off h
  refine ⟨rfl, defaultConfig_legal, ?_, ?_, ?_⟩
  · unfold ReadOnlyOffset; revert off; decide
  · revert off; decide
  · simp [idleWith, State.reset, defaultConfig]

theorem witness_UnmappedOffsetsReadZeroAndIgnoreWrites : ∀ off ∈ ([0x00024, 0x0002F, 0x00050, 0x000FF, 0x001B0,
      0x0FFFF, 0x11000, 0x1FFFF, 0x21000, 0x3FFFF] : List Nat),
    State.reset.config.Legal ∧ UnmappedOffset State.reset.config.maxMsgBytes off ∧
    ((idleWith (.busRead off)).phase = .idle ∧ ReadNext (idleWith (.busRead off)) off) ∧
    ((idleWith (.busWrite off 1)).phase = .idle ∧ WriteNext (idleWith (.busWrite off 1)) off 1) ∧
    ((busyWith (.busWrite off 1)).phase = .busy ∧ WriteNext (busyWith (.busWrite off 1)) off 1) := by
  intro off h
  have hr : off < 2 ^ 18 := by revert off; decide
  refine ⟨by decide, ?_, ⟨rfl, hr, ?_⟩, ⟨rfl, hr, ?_⟩, rfl, hr, ?_⟩
  · unfold UnmappedOffset; revert off; decide
  · simp [idleWith, State.reset, defaultConfig]
  · simp [idleWith, State.reset, defaultConfig]
  · simp [busyWith, State.issue, State.reset, defaultConfig]

/-- Every offset the statements read while IDLE, the first and the last word of each region; RK with a schedule. -/
theorem witness_RegistersReadTheirValues : ∀ off ∈ ([0x00000, 0x00004, 0x00008, 0x00010, 0x00014, 0x00018, 0x0001C,
      0x00020, 0x00030, 0x0003C, 0x00040, 0x0004C, 0x00100, 0x001AC] : List Nat),
    let s := { keyed 0 0 with events := [.busRead off] }
    s.phase = .idle ∧ s.rk = some (keyExpansion (bytes128 0)) ∧ ReadNext s off := by
  intro off h
  refine ⟨rfl, rfl, ?_, ?_⟩
  · revert off; decide
  · simp [keyed, withBlock, State.reset, defaultConfig]

theorem witness_BufferWindowsReadTheirBytes : ∀ off ∈ ([0x10000, 0x10FFC, 0x20000, 0x20FFC] : List Nat),
    let s := { idleWith (.busRead off) with
      din := [(0, 1), (4095, 2)], dout := [(0, 3), (4095, 4)] }
    s.phase = .idle ∧ 0 < s.config.maxMsgBytes / 4 ∧ 1023 < s.config.maxMsgBytes / 4 ∧ s.config.Legal ∧
    ReadNext s off ∧ s.din.read (4 * 1023 + 3) = some 2 ∧ s.dout.read (4 * 0 + 0) = some 3 := by
  intro off h
  refine ⟨rfl, show 0 < 4096 / 4 by decide, show 1023 < 4096 / 4 by decide, defaultConfig_legal, ⟨?_, ?_⟩, rfl, rfl⟩
  · revert off; decide
  · simp [idleWith, State.reset, defaultConfig]

theorem witness_ReadsHaveNoSideEffects :
    (idleWith (.busRead 0x40000)).events.head? = some (.busRead 0x40000) := rfl

/-- The invariant holds in the state after an issue. -/
theorem busyWith_inv (e : Event) : (busyWith e).Inv where
  configLegal := defaultConfig_legal
  dinInBuffer := ⟨List.Pairwise.nil, fun c hc => absurd hc List.not_mem_nil⟩
  doutInBuffer := ⟨List.Pairwise.nil, fun c hc => absurd hc List.not_mem_nil⟩
  errInRange := by show (0 : BitVec 4).toNat ≤ 6; decide
  busyClear := fun _ => ⟨rfl, rfl⟩
  errorNoOutput := fun _ => rfl
  outLenFits := Nat.zero_le _
  outputWritten := fun k hk => absurd hk (Nat.not_lt_zero k)
  keyValidSchedule := fun h => absurd h (by simp [busyWith, State.issue, State.reset])

theorem witness_StatusCanBePolledWhileBusy : ∀ off ∈ ([0x00000, 0x00004, 0x0000C, 0x00010] : List Nat),
    (busyWith (.busRead off)).phase = .busy ∧ (busyWith (.busRead off)).Inv ∧ ReadNext (busyWith (.busRead off)) off := by
  intro off h
  refine ⟨rfl, busyWith_inv _, ?_, ?_⟩
  · revert off; decide
  · simp [busyWith, State.issue, State.reset, defaultConfig]

theorem witness_UnalignedAccessesSelectTheAlignedWord : 0x3FFFF < 2 ^ 18 ∧ 0x10003 < 2 ^ 18 := by decide

theorem witness_InterruptFollowsEnableAndDone :
    ((issued 0).phase = .busy ∧ EngineNext (issued 0) ∧ ∃ t, step (issued 0) = .next t) ∧
    (WriteNext (idleWith (.busWrite 0x00010 1)) 0x00010 1 ∧ ∃ t, step (idleWith (.busWrite 0x00010 1)) = .next t) ∧
    (WriteNext (idleWith (.busWrite 0x0000C 2)) 0x0000C 2 ∧ (2 : Word).getLsbD 1 = true ∧
      ∃ t, step (idleWith (.busWrite 0x0000C 2)) = .next t) ∧
    (WriteNext (idleWith (.busWrite 0x00008 0)) 0x00008 0 ∧ ∃ t, step (idleWith (.busWrite 0x00008 0)) = .next t) ∧
    ((idleWith .reset).events.head? = some .reset ∧ ∃ t, step (idleWith .reset) = .next t) :=
  ⟨⟨rfl, .inr rfl, step_next _⟩, ⟨⟨by decide, rfl⟩, step_next _⟩, ⟨⟨by decide, rfl⟩, by decide, step_next _⟩,
    ⟨⟨by decide, rfl⟩, step_next _⟩, rfl, step_next _⟩

/-- An issue makes the machine BUSY; a read while BUSY keeps it so; a completion ends it. -/
theorem witness_BusyIsFromIssueToCompletion :
    after (step (idleWith (.busWrite 0x0000B 0))) (·.phase) = some .busy ∧
    after (step (busyWith (.busRead 0))) (·.phase) = some .busy ∧ after (step (issued 0)) (·.phase) = some .idle := by
  decide

/-- DONE set by a completion and cleared by a W1C write; BUSY_WR set by a write while BUSY. -/
theorem witness_DoneAndBusyWrFollowTheirEvents :
    after (step (issued 0)) (·.done) = some true ∧
    after (step { idleWith (.busWrite 0x0000F 2) with done := true }) (·.done) = some false ∧
    after (step (busyWith (.busWrite 0 0))) (·.busyWr) = some true := by decide

/-- The three ways KEY_VALID changes. -/
theorem witness_ScheduleChangesOnlyAtKeyExpansion :
    after (step (issued 1)) (·.keyValid) = some true ∧
    after (step ({ keyed 0 0 with keyLen := 15 }.issueNext 1)) (·.keyValid) = some false ∧
    after (step { keyed 0 0 with events := [.reset] }) (·.keyValid) = some false := by decide +kernel

/-- One event of each kind that changes KEY, IV (two ways) and RESULT; none of them a reset. -/
theorem witness_KeyIvAndResultHaveFewWriters :
    after (step (idleWith (.busWrite 0x0003F 1))) (fun t => int128 t.key) = some 1 ∧
    (idleWith (.busWrite 0x0003F 1)).events.head? ≠ some .reset ∧
    after (step (issued 0x0A)) (fun t => int128 t.iv) = some 1 ∧ (issued 0x0A).events.head? ≠ some .reset ∧
    after (step (issued 0x0101000B)) (·.result) = some 1 := by
  decide

theorem witness_ResetGivesTheResetState : (busyWith .reset).events.head? = some .reset := rfl

theorem witness_EveryStepKeepsTheInvariant :
    (busyWith (.busWrite 0x10000 1)).Inv ∧ ∃ t, step (busyWith (.busWrite 0x10000 1)) = .next t :=
  ⟨busyWith_inv _, step_next _⟩

end Sys2Proof.Tests
end

