-- ==== Sys2Proof/Proofs/Invariant.lean ====
section
/-! PROOF. Every operation a step is made of keeps the invariant, and so every step does (O60). -/

namespace Sys2Proof.Machine

variable {s : State}

/-! The host's accesses and the order of events -/

theorem advance_inv (h : s.Inv) : s.advance.Inv := { h with }

theorem hostRead_inv (h : s.Inv) (addr : Nat) : (s.hostRead addr).Inv := by
  rcases hostRead_cases s addr with ⟨off, _, e⟩ | ⟨_, e⟩ <;> rw [e]
  · exact { h with }
  · exact h

/-- OUT_LEN stays at an issue: where ERR was set it is 0 already (R36, R131). -/
theorem issue_inv (h : s.Inv) (w : Word) : (s.issue w).Inv :=
  { h with
    errInRange := by simp
    busyClear := fun _ => ⟨rfl, rfl⟩
    errorNoOutput := fun he => absurd rfl he }

theorem ackStatus_inv (h : s.Inv) (v : Word) : (s.ackStatus v).Inv :=
  { h with
    busyClear := fun hb => by
      obtain ⟨hdone, herr⟩ := h.busyClear hb
      simp [hdone, herr] }

/-- A word the register map places in the DIN window lies in DIN (R42). -/
theorem target_din_bound {c : Config} (hc : c.Legal) {off : Offset} {j : Nat} (ht : target c off = .din j) :
    4 * j + 4 ≤ c.maxMsgBytes := by
  obtain ⟨hmul, _, _⟩ := hc
  exact targetAt_din_bound ht (by omega)

/-- Of the writes while IDLE only the one to the DIN window has to stay in its buffer. -/
theorem writeTarget_inv (h : s.Inv) (v : Word) {tgt : Target}
    (hdin : ∀ j, tgt = .din j → 4 * j + 4 ≤ s.config.maxMsgBytes) : (s.writeTarget v tgt).Inv := by
  cases tgt with
  | cmd => exact issue_inv h v
  | status => exact ackStatus_inv h v
  | din j => exact { h with dinInBuffer := writeBytes_inBuffer h.dinInBuffer (hdin j rfl) }
  | ctrl | keyLen | len | key | iv => exact { h with }
  | id | caps | outLen | result | rk | dout | unmapped => exact h

theorem hostWrite_inv (h : s.Inv) (addr : Nat) (v : Word) : (s.hostWrite addr v).Inv := by
  rcases hostWrite_cases s addr v with ⟨off, _, ⟨_, e⟩ | ⟨_, e⟩⟩ | ⟨_, e⟩ <;> rw [e]
  · exact { h with }
  · exact writeTarget_inv h v fun _ => target_din_bound h.configLegal
  · exact h

/-! Reset -/

theorem nil_inBuffer (size : Nat) : Memory.InBuffer [] size := ⟨.nil, nofun⟩

theorem resetEvent_inv (h : s.Inv) : s.resetEvent.Inv where
  configLegal := h.configLegal
  dinInBuffer := nil_inBuffer _
  doutInBuffer := nil_inBuffer _
  errInRange := Nat.zero_le _
  busyClear := nofun
  errorNoOutput := fun _ => rfl
  outLenFits := Nat.zero_le _
  outputWritten := nofun
  keyValidSchedule := nofun

/-! The engine's turn -/

theorem keyLoad_inv (h : s.Inv) : s.keyLoad.Inv := by
  by_cases hk : s.keyLen = 16
  · rw [keyLoad_ok hk]
    exact { h with keyValidSchedule := fun _ => ⟨s.key, rfl⟩ }
  · rw [keyLoad_error hk]
    exact { h with keyValidSchedule := nofun }

theorem commandRegisters_inv (h : s.Inv) (i : Instr) : (commandRegisters i s).Inv := by
  cases i with
  | setkey | cbcEnc | cbcDec | ctrEnc | ctrDec => exact keyLoad_inv h
  | ctrInc | gfmul => exact { h with }
  | nop | encBlock | decBlock | pad | unpad | subBytes | invSubBytes | shiftRows | invShiftRows | mixColumns
  | invMixColumns | addRoundKey => exact h

@[simp] theorem commandRegisters_config (i : Instr) (s : State) : (commandRegisters i s).config = s.config := by
  rw [commandRegisters_frame]

/-- An error has a code of R290 and leaves OUT_LEN 0. -/
theorem raiseError_inv (h : s.Inv) (e : CmdError) : (s.raiseError e).Inv :=
  { h with
    errInRange := (code_bounds e).2
    busyClear := nofun
    errorNoOutput := fun _ => rfl
    outLenFits := Nat.zero_le _
    outputWritten := nofun }

/-- An output that fits DOUT has a length that fits OUT_LEN. -/
theorem finish_outLen_toNat (hc : s.config.Legal) {out : List Byte} (hout : out.length ≤ s.config.maxMsgBytes) :
    (s.finish out).outLen.toNat = out.length := by
  obtain ⟨_, _, hmax⟩ := hc
  rw [finish_outLen, BitVec.toNat_ofNat, Nat.mod_eq_of_lt (by omega)]

/-- An output that fits DOUT is written there whole, so it is there to be read (R36, R135). -/
theorem finish_inv (h : s.Inv) {out : List Byte} (hout : out.length ≤ s.config.maxMsgBytes) : (s.finish out).Inv :=
  have hlen := finish_outLen_toNat h.configLegal hout
  { h with
    doutInBuffer := writeBytes_inBuffer h.doutInBuffer (by rwa [Nat.zero_add])
    errInRange := by simp
    busyClear := nofun
    errorNoOutput := fun he => absurd rfl he
    outLenFits := hlen.trans_le hout
    outputWritten := fun k hk => by
      rw [hlen] at hk
      simp [read_writeBytes, hk] }

theorem complete_inv (h : s.Inv) {r : Except CmdError (List Byte)}
    (hr : ∀ out, r = .ok out → out.length ≤ s.config.maxMsgBytes) : (s.complete r).Inv := by
  cases r with
  | ok out => exact finish_inv h (hr out rfl)
  | error e => exact raiseError_inv h e

/-- Whatever command completes: its registers keep the invariant, and its output fits DOUT. -/
theorem command_inv (h : s.Inv) (i : Instr) : ((commandRegisters i s).complete (commandResult i s)).Inv := by
  obtain ⟨_, hmin, _⟩ := h.configLegal
  refine complete_inv (commandRegisters_inv h i) fun out hout => ?_
  rw [commandRegisters_config]
  exact commandResult_length hout hmin

theorem engineTurn_inv {t : State} (h : s.Inv) (ht : engineTurn s = .next t) : t.Inv := by
  rcases engineTurn_cases s with ⟨_, e⟩ | ⟨_, _, e⟩ | ⟨_, i, _, e⟩ <;> cases e.symm.trans ht
  · exact h
  · exact raiseError_inv h .illegalCommand
  · exact command_inv h i

theorem step_inv {t : State} (h : s.Inv) (ht : step s = .next t) : t.Inv := by
  have ha := advance_inv h
  rcases step_cases s with ⟨addr, _, e⟩ | ⟨addr, v, _, e⟩ | ⟨_, e⟩ | ⟨_, e⟩
  · cases e.symm.trans ht
    exact hostRead_inv ha addr
  · cases e.symm.trans ht
    exact hostWrite_inv ha addr v
  · cases e.symm.trans ht
    exact resetEvent_inv ha
  · exact engineTurn_inv ha (e.symm.trans ht)

end Sys2Proof.Machine

namespace Sys2Proof

/-- Settles O60: each of the four kinds of event keeps the invariant (`Machine.step_inv`). -/
theorem everyStepKeepsTheInvariant : Obligations.EveryStepKeepsTheInvariant := by
  unfold Obligations.EveryStepKeepsTheInvariant
  exact fun _ _ => Machine.step_inv

end Sys2Proof
end

/-! PROOF. The host's accesses as one equation each, everything a step can do to the state, and the obligations about
the registers and their writers (O40 to O43, O46, O47, O51 to O55). -/

namespace Sys2Proof.Machine

open Sys2Proof.Stated

variable {s t : State}

/-! ## One step, by its next event -/

theorem nextEvent_of_head {e : Event} (h : s.events.head? = some e) : s.nextEvent = e := by
  rw [State.nextEvent, List.headD_eq_head?_getD, h, Option.getD_some]

theorem nextEvent_of_engineNext (h : EngineNext s) : s.nextEvent = .engine := by
  rcases h with h | h
  · rw [State.nextEvent, h, List.headD_nil]
  · exact nextEvent_of_head h

theorem engineNext_of_nextEvent (h : s.nextEvent = .engine) : EngineNext s := by
  unfold State.nextEvent at h
  cases he : s.events with
  | nil => exact .inl he
  | cons e es =>
    rw [he, List.headD_cons] at h
    exact .inr (by rw [he, List.head?_cons, h])

/-- Unlike the engine's turn, every other event stands in the list. -/
theorem head_of_nextEvent {e : Event} (h : s.nextEvent = e) (he : e ≠ .engine) : s.events.head? = some e := by
  unfold State.nextEvent at h
  cases hs : s.events with
  | nil => rw [hs, List.headD_nil] at h; exact absurd h.symm he
  | cons a es => rw [hs, List.headD_cons] at h; rw [List.head?_cons, h]

theorem step_of_reset (h : s.events.head? = some .reset) : step s = .next s.advance.resetEvent := by
  simp only [step, nextEvent_of_head h]

theorem step_of_engineNext (h : EngineNext s) : step s = engineTurn s.advance := by
  simp only [step, nextEvent_of_engineNext h]

/-- A host read in the window, in either phase: only the model's record of the answer changes. -/
theorem step_of_readNext {off : Nat} {v : Word} (h : ReadNext s off)
    (hv : s.advance.busReadValue (BitVec.ofNat 18 off) = v) : step s = .next { eventTaken s with readData := v } := by
  obtain ⟨hoff, hhead⟩ := h
  simp only [step, nextEvent_of_head hhead, State.hostRead, advance_config, windowOffset_base hoff, hv]
  rfl

/-- A host write in the window while IDLE. -/
theorem step_of_writeNext {off : Nat} {v : Word} (hp : s.phase = .idle) (h : WriteNext s off v) :
    step s = .next (s.advance.writeTarget v (targetAt s.config.maxMsgBytes (off / 4 * 4))) := by
  obtain ⟨hoff, hhead⟩ := h
  simp only [step, nextEvent_of_head hhead, State.hostWrite, State.busWriteAt, advance_config, advance_phase, hp,
    windowOffset_base hoff, target_ofNat _ hoff]

/-- A host read in the window while IDLE gives the value of the selected register. -/
theorem step_of_readNext_idle {off : Nat} {v : Word} (hp : s.phase = .idle) (h : ReadNext s off)
    (hv : s.advance.regValue (targetAt s.config.maxMsgBytes (off / 4 * 4)) = v) :
    step s = .next { eventTaken s with readData := v } :=
  step_of_readNext h (by
    simp only [State.busReadValue, advance_phase, hp, advance_config, target_ofNat _ h.1, hv])

/-! ## The words of the banks and the windows -/

theorem targetAt_keyWord (max : Nat) {j : Nat} (hj : j < 4) :
    targetAt max ((0x00030 + 4 * j) / 4 * 4) = .key ⟨j, hj⟩ := by
  rw [targetAt_key max (by omega), Target.key.injEq, Fin.mk.injEq]
  omega

theorem targetAt_ivWord (max : Nat) {j : Nat} (hj : j < 4) :
    targetAt max ((0x00040 + 4 * j) / 4 * 4) = .iv ⟨j, hj⟩ := by
  rw [targetAt_iv max (by omega), Target.iv.injEq, Fin.mk.injEq]
  omega

theorem targetAt_rkWord (max : Nat) {i : Nat} (hi : i < 44) :
    targetAt max ((0x00100 + 4 * i) / 4 * 4) = .rk ⟨i, hi⟩ := by
  rw [targetAt_rk max (by omega), Target.rk.injEq, Fin.mk.injEq]
  omega

theorem targetAt_dinWord {max j : Nat} (hj : j < max / 4) :
    targetAt max ((0x10000 + 4 * j) / 4 * 4) = .din j := by
  rw [targetAt_din (by omega), Target.din.injEq]
  omega

theorem targetAt_doutWord {max j : Nat} (hj : j < max / 4) (hmax : max ≤ 65536) :
    targetAt max ((0x20000 + 4 * j) / 4 * 4) = .dout j := by
  rw [targetAt_dout (by omega) hmax, Target.dout.injEq]
  omega

/-! ## The bytes of words, columns and blocks -/

theorem bytes32_bytes_getD (v : Word) {k : Nat} (hk : k < 4) : (bytes32 v).bytes.getD k 0 = wordByte v k := by
  interval_cases k <;> rfl

/-- Byte k of a word made of four bytes is the k-th of them (20_memory.md R73). -/
theorem wordByte_be32 (c : Column) {k : Nat} (hk : k < 4) : wordByte (be32 c) k = c.bytes.getD k 0 := by
  rw [← bytes32_bytes_getD _ hk, bytes32_be32]

/-- Byte k of a block stands in row k % 4 of column k / 4 (00_scope.md R8). -/
theorem byte_eq_col_getD (b : Block) {k : Nat} (j : Fin 4) (hj : k / 4 = j.val) :
    b.byte k = (b.col j).bytes.getD (k % 4) 0 := by
  obtain ⟨j, hj4⟩ := j
  obtain rfl : k / 4 = j := hj
  have hk : k < 16 := by omega
  interval_cases k <;> rfl

theorem col_setCol (b : Block) (c : Column) (i j : Fin 4) :
    (b.setCol c j).col i = if i = j then c else b.col i := by
  fin_cases j <;> fin_cases i <;> rfl

/-- Writing word j of a block sets its bytes 4j to 4j+3, most significant first, and keeps the others. -/
theorem byte_setCol_bytes32 (b : Block) (v : Word) (j : Fin 4) {k : Nat} (hk : k < 16) :
    (b.setCol (bytes32 v) j).byte k = if k / 4 = j.val then wordByte v (k % 4) else b.byte k := by
  have hi : k / 4 < 4 := by omega
  rw [byte_eq_col_getD _ ⟨k / 4, hi⟩ rfl, byte_eq_col_getD b ⟨k / 4, hi⟩ rfl, col_setCol,
    ← bytes32_bytes_getD v (Nat.mod_lt k (by decide))]
  by_cases h : k / 4 = j.val
  · rw [if_pos (Fin.ext h), if_pos h]
  · rw [if_neg (fun e => h (congrArg Fin.val e)), if_neg h]

/-- Byte k of the word that column j of a block reads as. -/
theorem wordByte_be32_col (b : Block) (j : Fin 4) {k : Nat} (hk : k < 4) :
    wordByte (be32 (b.col j)) k = b.byte (4 * j.val + k) := by
  rw [wordByte_be32 _ hk, byte_eq_col_getD b j (by omega), Nat.mul_add_mod, Nat.mod_eq_of_lt hk]

/-- Writing word j of a RAM sets its bytes 4j to 4j+3, most significant first, and keeps the others. -/
theorem read_writeBytes_bytes32 (m : Memory) (v : Word) (j k : Nat) :
    (m.writeBytes (4 * j) (bytes32 v).bytes).read k =
      if k / 4 = j then some (wordByte v (k % 4)) else m.read k := by
  have hrow : k % 4 < 4 := Nat.mod_lt k (by decide)
  split
  · next h =>
    have hk : k = 4 * j + k % 4 := by omega
    have hlen : k % 4 < (bytes32 v).bytes.length := hrow
    rw [← bytes32_bytes_getD v hrow, List.getD_eq_getElem _ _ hlen, ← read_writeBytes_inside hlen, ← hk]
  · next h => exact read_writeBytes_outside (by rw [Column.bytes_length]; omega)

theorem wordByte_dinWord (s : State) (j : Nat) {k : Nat} (hk : k < 4) :
    wordByte (s.dinWord j) k = s.dinByte (4 * j + k) := by
  rw [State.dinWord, wordByte_be32 _ hk]
  interval_cases k <;> rfl

theorem wordByte_doutWord (s : State) (j : Nat) {k : Nat} (hk : k < 4) :
    wordByte (s.doutWord j) k = s.doutByte (4 * j + k) := by
  rw [State.doutWord, wordByte_be32 _ hk]
  interval_cases k <;> rfl

theorem dinByte_of_read {k : Nat} {b : Byte} (h : s.din.read k = some b) : s.dinByte k = b := by
  rw [State.dinByte, h, Option.getD_some]

theorem doutByte_of_read {k : Nat} {b : Byte} (h : s.dout.read k = some b) : s.doutByte k = b := by
  rw [State.doutByte, h, Option.getD_some]

theorem schedule_of_rk {w : Schedule} (h : s.rk = some w) : s.schedule = w := by
  simp only [State.schedule, h]

/-! ## The words of STATUS and CTRL -/

/-- The one-bit fields of STATUS stand at their bits (10_state.md R27). -/
theorem statusWord_flags (s : State) :
    s.statusWord.getLsbD 0 = s.phase.busyBit ∧ s.statusWord.getLsbD 1 = s.done ∧
    s.statusWord.getLsbD 2 = s.keyValid ∧ s.statusWord.getLsbD 3 = s.busyWr := by
  simp only [State.statusWord, BitVec.getLsbD_append]
  simp

/-- ERR stands at bits [11:8] of STATUS, between zeros (10_state.md R27). -/
theorem statusWord_err (s : State) :
    s.statusWord.extractLsb' 4 4 = 0 ∧ s.statusWord.extractLsb' 8 4 = s.err ∧
    s.statusWord.extractLsb' 12 20 = 0 := by
  refine ⟨?_, ?_, ?_⟩ <;>
    (ext i hi; simp only [State.statusWord, BitVec.getElem_extractLsb']; grind)

theorem busyBit_eq_true_iff (p : Phase) : p.busyBit = true ↔ p = .busy := by cases p <;> decide

theorem ctrlWord_eq (s : State) : s.ctrlWord = if s.ie then 1 else 0 := by
  unfold State.ctrlWord
  cases s.ie <;> rfl

/-- STATUS is one of the registers that read the same in both phases (70_reset_and_hazards.md R334). -/
theorem busReadValue_status (s : State) : s.busReadValue 0x0000C = s.statusWord := by
  unfold State.busReadValue
  cases s.phase <;> rfl

/-- Clearing on ones, as a case distinction on the written bit. -/
theorem ackStatus_eq (s : State) (v : Word) :
    s.ackStatus v = { s with
      done := if v.getLsbD 1 then false else s.done, busyWr := if v.getLsbD 3 then false else s.busyWr } := by
  unfold State.ackStatus
  cases v.getLsbD 1 <;> cases v.getLsbD 3 <;> simp

end Sys2Proof.Machine

/-! ## The obligations about the host's accesses -/

namespace Sys2Proof

open Machine Stated

/-- Settles O40: the fields of the STATUS word (`statusWord_flags`, `statusWord_err`) and the write that clears on ones
(`ackStatus_eq`). -/
theorem statusReadsItsFieldsAndClearsOnOnes : Obligations.StatusReadsItsFieldsAndClearsOnOnes := by
  unfold Obligations.StatusReadsItsFieldsAndClearsOnOnes
  refine ⟨rfl, fun s v hp hw => ?_, fun s hr => ⟨s.statusWord, ?_, ?_⟩⟩
  · exact (step_of_writeNext hp hw).trans (congrArg _ (ackStatus_eq s.advance v))
  · exact step_of_readNext hr (busReadValue_status s.advance)
  · obtain ⟨hbusy, hdone, hkey, hwr⟩ := statusWord_flags s
    exact ⟨by rw [hbusy, busyBit_eq_true_iff], hdone, hkey, hwr, statusWord_err s⟩

/-- Settles O41: each write selects its register, whose write is the stated update. -/
theorem controlRegistersStoreTheirBits : Obligations.ControlRegistersStoreTheirBits := by
  unfold Obligations.ControlRegistersStoreTheirBits
  exact fun s v hp => ⟨step_of_writeNext hp, step_of_writeNext hp, step_of_writeNext hp⟩

/-- Settles O42: word j of KEY or IV is column j of its block (`byte_setCol_bytes32`). -/
theorem keyAndIvWordsAreBigEndian : Obligations.KeyAndIvWordsAreBigEndian := by
  unfold Obligations.KeyAndIvWordsAreBigEndian
  refine fun s j v hp hj => ⟨fun hw => ⟨_, ?_, fun k => byte_setCol_bytes32 s.key v ⟨j, hj⟩⟩,
    fun hw => ⟨_, ?_, fun k => byte_setCol_bytes32 s.iv v ⟨j, hj⟩⟩⟩
  · rw [step_of_writeNext hp hw, targetAt_keyWord _ hj]; rfl
  · rw [step_of_writeNext hp hw, targetAt_ivWord _ hj]; rfl

/-- Settles O43: the write is the four-byte write of `read_writeBytes_bytes32`. -/
theorem dinWriteSetsFourBytes : Obligations.DinWriteSetsFourBytes := by
  unfold Obligations.DinWriteSetsFourBytes
  refine fun s j v hp hj _ hw => ⟨_, ?_, read_writeBytes_bytes32 s.din v j⟩
  rw [step_of_writeNext hp hw, targetAt_dinWord hj]; rfl

/-- Settles O46: each offset selects its register (the bottom ones by evaluation of the map), whose value is the stated
one. -/
theorem registersReadTheirValues : Obligations.RegistersReadTheirValues := by
  unfold Obligations.RegistersReadTheirValues
  intro s hp
  refine ⟨fun h => step_of_readNext_idle hp h rfl, fun h => step_of_readNext_idle hp h rfl,
    fun h => step_of_readNext_idle hp h rfl, fun h => step_of_readNext_idle hp h (ctrlWord_eq s.advance),
    fun h => step_of_readNext_idle hp h rfl, fun h => step_of_readNext_idle hp h rfl,
    fun h => step_of_readNext_idle hp h rfl, fun h => step_of_readNext_idle hp h rfl,
    fun j hj h => ⟨_, step_of_readNext_idle hp h ?key, fun k => wordByte_be32_col s.key ⟨j, hj⟩⟩,
    fun j hj h => ⟨_, step_of_readNext_idle hp h ?iv, fun k => wordByte_be32_col s.iv ⟨j, hj⟩⟩,
    fun w i hi hrk h => step_of_readNext_idle hp h ?rk⟩
  case key => rw [targetAt_keyWord _ hj]; rfl
  case iv => rw [targetAt_ivWord _ hj]; rfl
  case rk =>
    have hw : s.advance.schedule = w := schedule_of_rk hrk
    rw [targetAt_rkWord _ hi, ← hw]; rfl

/-- Settles O47: byte k of a window's word is the buffer's byte 4j + k (`wordByte_dinWord`, `wordByte_doutWord`). -/
theorem bufferWindowsReadTheirBytes : Obligations.BufferWindowsReadTheirBytes := by
  unfold Obligations.BufferWindowsReadTheirBytes
  intro s j hp hj ⟨_, _, hmax⟩
  refine ⟨fun h => ⟨s.advance.dinWord j, step_of_readNext_idle hp h ?_, fun k hk b hb => ?_⟩,
    fun h => ⟨s.advance.doutWord j, step_of_readNext_idle hp h ?_, fun k hk b hb => ?_⟩⟩
  · rw [targetAt_dinWord hj]; rfl
  · rw [wordByte_dinWord _ _ hk]; exact dinByte_of_read hb
  · rw [targetAt_doutWord hj hmax]; rfl
  · rw [wordByte_doutWord _ _ hk]; exact doutByte_of_read hb

end Sys2Proof

/-! ## Everything a step can do to the state -/

namespace Sys2Proof.Machine

open Sys2Proof.Stated

/-- The transitions of AESC, one constructor for each way a step can end (`step_transition`): the next state is written
with the state's named updates. -/
inductive Transition (s : State) : State → Prop
  /-- A host read, inside the window or outside. -/
  | read (addr : Nat) (v : Word) (hhead : s.events.head? = some (.busRead addr)) :
    Transition s { s.advance with readData := v }
  /-- A host write outside the window is no access to AESC (20_memory.md R71). -/
  | outsideWrite (addr : Nat) (v : Word) (hhead : s.events.head? = some (.busWrite addr v))
    (hout : s.config.windowOffset addr = none) : Transition s s.advance
  /-- A host write while BUSY (70_reset_and_hazards.md R333). -/
  | busyWrite (off : Nat) (v : Word) (hw : WriteNext s off v) (hp : s.phase = .busy) :
    Transition s { s.advance with busyWr := true }
  /-- A host write while IDLE, at the word its offset selects. -/
  | idleWrite (off : Nat) (v : Word) (hw : WriteNext s off v) (hp : s.phase = .idle) :
    Transition s (s.advance.writeTarget v (targetAt s.config.maxMsgBytes (off / 4 * 4)))
  /-- A reset (70_reset_and_hazards.md R330). -/
  | reset (hhead : s.events.head? = some .reset) : Transition s s.advance.resetEvent
  /-- The engine's turn while IDLE does nothing. -/
  | idleTurn (he : EngineNext s) (hp : s.phase = .idle) : Transition s s.advance
  /-- An Illegal command word completes (40_dispatch.md R137). -/
  | illegalCompletion (he : EngineNext s) (hp : s.phase = .busy) :
    Transition s (s.advance.raiseError .illegalCommand)
  /-- A command completes (40_dispatch.md R133). -/
  | completion (i : Instr) (he : EngineNext s) (hp : s.phase = .busy) (hd : decode s.cmdq = .ok i) :
    Transition s ((commandRegisters i s.advance).complete (commandResult i s.advance))

variable {s t : State}

theorem hostRead_transition {addr : Nat} (hhead : s.events.head? = some (.busRead addr)) :
    Transition s (s.advance.hostRead addr) := by
  rcases hostRead_cases s.advance addr with ⟨off, _, e⟩ | ⟨_, e⟩ <;> rw [e]
  · exact .read addr _ hhead
  · exact .read addr s.readData hhead

theorem hostWrite_transition {addr : Nat} {v : Word} (hhead : s.events.head? = some (.busWrite addr v)) :
    Transition s (s.advance.hostWrite addr v) := by
  rcases hostWrite_cases s.advance addr v with ⟨off, hoff, h⟩ | ⟨hout, e⟩
  · have hw : WriteNext s off.toNat v := ⟨off.isLt, by rw [hhead, windowOffset_some hoff, advance_config]⟩
    rcases h with ⟨hp, e⟩ | ⟨hp, e⟩ <;> rw [e]
    · exact .busyWrite _ v hw hp
    · exact .idleWrite _ v hw hp
  · rw [e]
    exact .outsideWrite addr v hhead hout

theorem engineTurn_transition (he : EngineNext s) (ht : engineTurn s.advance = .next t) : Transition s t := by
  rcases engineTurn_cases s.advance with ⟨hp, e⟩ | ⟨hp, _, e⟩ | ⟨hp, i, hd, e⟩ <;> cases e.symm.trans ht
  · exact .idleTurn he hp
  · exact .illegalCompletion he hp
  · exact .completion i he hp hd

/-- Every step is one of the transitions. -/
theorem step_transition (ht : step s = .next t) : Transition s t := by
  rcases step_cases s with ⟨addr, hn, e⟩ | ⟨addr, v, hn, e⟩ | ⟨hn, e⟩ | ⟨hn, e⟩
  · cases e.symm.trans ht
    exact hostRead_transition (head_of_nextEvent hn nofun)
  · cases e.symm.trans ht
    exact hostWrite_transition (head_of_nextEvent hn nofun)
  · cases e.symm.trans ht
    exact .reset (head_of_nextEvent hn nofun)
  · exact engineTurn_transition (engineNext_of_nextEvent hn) (e.symm.trans ht)

/-! ## Which event is next -/

theorem engineNext_iff_of_head {e : Event} (h : s.events.head? = some e) : EngineNext s ↔ e = .engine :=
  ⟨fun he => (nextEvent_of_head h).symm.trans (nextEvent_of_engineNext he), fun he => .inr (h.trans (by rw [he]))⟩

/-- At the engine's turn no host access and no reset is next. -/
theorem head_ne_of_engineNext {e : Event} (h : EngineNext s) (he : e ≠ .engine) : s.events.head? ≠ some e :=
  fun hhead => he ((engineNext_iff_of_head hhead).mp h)

theorem not_engineNext_of_writeNext {off : Nat} {v : Word} (h : WriteNext s off v) : ¬ EngineNext s :=
  fun he => nomatch (engineNext_iff_of_head h.2).mp he

theorem not_writeNext_of_engineNext {off : Nat} {v : Word} (h : EngineNext s) : ¬ WriteNext s off v :=
  fun hw => not_engineNext_of_writeNext hw h

/-- The next write is at one offset and of one word. -/
theorem writeNext_iff {off off' : Nat} {v v' : Word} (h : WriteNext s off v) :
    WriteNext s off' v' ↔ off' = off ∧ v' = v := by
  obtain ⟨hoff, hhead⟩ := h
  constructor
  · rintro ⟨_, hhead'⟩
    rw [hhead, Option.some.injEq, Event.busWrite.injEq] at hhead'
    exact ⟨by omega, hhead'.2.symm⟩
  · rintro ⟨rfl, rfl⟩
    exact ⟨hoff, hhead⟩

/-- A write whose address selects no offset is at no offset of the window. -/
theorem not_writeNext_of_outside {addr off : Nat} {v v' : Word} (hhead : s.events.head? = some (.busWrite addr v))
    (hout : s.config.windowOffset addr = none) : ¬ WriteNext s off v' := by
  rintro ⟨hoff, hhead'⟩
  rw [hhead, Option.some.injEq, Event.busWrite.injEq] at hhead'
  rw [hhead'.1, windowOffset_base hoff] at hout
  cases hout

/-! ## What a write while IDLE assigns -/

@[simp] theorem writeTarget_rk (s : State) (v : Word) (tgt : Target) : (s.writeTarget v tgt).rk = s.rk := by
  cases tgt <;> rfl

@[simp] theorem writeTarget_keyValid (s : State) (v : Word) (tgt : Target) :
    (s.writeTarget v tgt).keyValid = s.keyValid := by cases tgt <;> rfl

@[simp] theorem writeTarget_result (s : State) (v : Word) (tgt : Target) :
    (s.writeTarget v tgt).result = s.result := by cases tgt <;> rfl

/-- Only the write to CMD makes the engine BUSY (10_state.md R28). -/
theorem writeTarget_phase_busy_iff (hp : s.phase = .idle) (v : Word) (tgt : Target) :
    (s.writeTarget v tgt).phase = .busy ↔ tgt = .cmd := by
  cases tgt <;> simp [State.writeTarget, hp]

/-- DONE survives every write but an issue and the clearing of bit 1 (10_state.md R29). -/
theorem writeTarget_done_iff (s : State) (v : Word) (tgt : Target) :
    (s.writeTarget v tgt).done = true ↔ s.done = true ∧ tgt ≠ .cmd ∧ ¬ (tgt = .status ∧ v.getLsbD 1 = true) := by
  cases tgt <;> simp [State.writeTarget]

/-- BUSY_WR survives every write but the clearing of bit 3 (10_state.md R31). -/
theorem writeTarget_busyWr_iff (s : State) (v : Word) (tgt : Target) :
    (s.writeTarget v tgt).busyWr = true ↔ s.busyWr = true ∧ ¬ (tgt = .status ∧ v.getLsbD 3 = true) := by
  cases tgt <;> simp [State.writeTarget]

theorem writeTarget_key_of_ne {v : Word} {tgt : Target} (h : (s.writeTarget v tgt).key ≠ s.key) :
    ∃ j, tgt = .key j := by
  cases tgt with
  | key j => exact ⟨j, rfl⟩
  | _ => exact absurd rfl h

theorem writeTarget_iv_of_ne {v : Word} {tgt : Target} (h : (s.writeTarget v tgt).iv ≠ s.iv) : ∃ j, tgt = .iv j := by
  cases tgt with
  | iv j => exact ⟨j, rfl⟩
  | _ => exact absurd rfl h

/-! ## The offsets of the registers -/

/-- Where the register map has each register (10_state.md R23), the ends of the windows and of `unmapped` left open. -/
def Target.LiesAt : Target → Nat → Prop
  | .id, a => a = 0x00000
  | .caps, a => a = 0x00004
  | .cmd, a => a = 0x00008
  | .status, a => a = 0x0000C
  | .ctrl, a => a = 0x00010
  | .keyLen, a => a = 0x00014
  | .len, a => a = 0x00018
  | .outLen, a => a = 0x0001C
  | .result, a => a = 0x00020
  | .key _, a => 0x00030 ≤ a ∧ a < 0x00040
  | .iv _, a => 0x00040 ≤ a ∧ a < 0x00050
  | .rk _, a => 0x00100 ≤ a ∧ a < 0x001B0
  | .din _, a => 0x10000 ≤ a
  | .dout _, a => 0x20000 ≤ a
  | .unmapped, _ => True

theorem controlTarget_liesAt (a : Nat) : (controlTarget a).LiesAt a := by
  unfold controlTarget
  split <;> simp [Target.LiesAt]

theorem targetAt_liesAt (max a : Nat) : (targetAt max a).LiesAt a := by
  rcases targetAt_cases max a with ⟨_, e⟩ | ⟨h, h', _, e, _⟩ | ⟨h, h', _, e, _⟩ | ⟨h, h', _, e, _⟩ | ⟨h, _, e⟩ |
    ⟨h, _, e⟩ | e <;> rw [e]
  · exact controlTarget_liesAt a
  · exact ⟨h, h'⟩
  · exact ⟨h, h'⟩
  · exact ⟨h, h'⟩
  · exact h
  · exact h
  · exact trivial

theorem liesAt_of_targetAt {max a : Nat} {tgt : Target} (h : targetAt max a = tgt) : tgt.LiesAt a :=
  h ▸ targetAt_liesAt max a

theorem targetAt_eq_cmd_iff (max off : Nat) :
    targetAt max (off / 4 * 4) = .cmd ↔ 0x00008 ≤ off ∧ off < 0x0000C := by
  constructor
  · intro h
    have ha : off / 4 * 4 = 0x00008 := liesAt_of_targetAt h
    omega
  · intro h
    have ha : off / 4 * 4 = 0x00008 := by omega
    rw [ha]; rfl

theorem targetAt_eq_status_iff (max off : Nat) :
    targetAt max (off / 4 * 4) = .status ↔ 0x0000C ≤ off ∧ off < 0x00010 := by
  constructor
  · intro h
    have ha : off / 4 * 4 = 0x0000C := liesAt_of_targetAt h
    omega
  · intro h
    have ha : off / 4 * 4 = 0x0000C := by omega
    rw [ha]; rfl

theorem offset_of_targetAt_key {max off : Nat} {j : Fin 4} (h : targetAt max (off / 4 * 4) = .key j) :
    0x00030 ≤ off ∧ off < 0x00040 := by
  have ⟨_, _⟩ : 0x00030 ≤ off / 4 * 4 ∧ off / 4 * 4 < 0x00040 := liesAt_of_targetAt h
  omega

theorem offset_of_targetAt_iv {max off : Nat} {j : Fin 4} (h : targetAt max (off / 4 * 4) = .iv j) :
    0x00040 ≤ off ∧ off < 0x00050 := by
  have ⟨_, _⟩ : 0x00040 ≤ off / 4 * 4 ∧ off / 4 * 4 < 0x00050 := liesAt_of_targetAt h
  omega

/-! ## The registers a command assigns -/

@[simp] theorem commandRegisters_ie (i : Instr) (s : State) : (commandRegisters i s).ie = s.ie := by
  rw [commandRegisters_frame]

@[simp] theorem commandRegisters_busyWr (i : Instr) (s : State) : (commandRegisters i s).busyWr = s.busyWr := by
  rw [commandRegisters_frame]

@[simp] theorem commandRegisters_key (i : Instr) (s : State) : (commandRegisters i s).key = s.key := by
  rw [commandRegisters_frame]

/-- A key-expanding command assigns what `KeyLoad()` does (42_cipher_core.md R183). -/
theorem commandRegisters_of_expandsKey {i : Instr} (h : expandsKey i = true) (s : State) :
    commandRegisters i s = s.keyLoad := by
  cases i with
  | setkey | cbcEnc | cbcDec | ctrEnc | ctrDec => rfl
  | _ => cases h

/-- No other command assigns RK or KEY_VALID. -/
theorem commandRegisters_schedule_of_not_expandsKey {i : Instr} (h : expandsKey i = false) (s : State) :
    (commandRegisters i s).rk = s.rk ∧ (commandRegisters i s).keyValid = s.keyValid := by
  cases i with
  | setkey | cbcEnc | cbcDec | ctrEnc | ctrDec => cases h
  | _ => exact ⟨rfl, rfl⟩

theorem commandRegisters_iv_of_ne {i : Instr} (h : (commandRegisters i s).iv ≠ s.iv) : i = .ctrInc := by
  cases i with
  | ctrInc => rfl
  | setkey | cbcEnc | cbcDec | ctrEnc | ctrDec => exact absurd (keyLoad_iv s) h
  | _ => exact absurd rfl h

theorem commandRegisters_result_of_ne {i : Instr} (h : (commandRegisters i s).result ≠ s.result) :
    ∃ a b, i = .gfmul a b := by
  cases i with
  | gfmul a b => exact ⟨a, b, rfl⟩
  | setkey | cbcEnc | cbcDec | ctrEnc | ctrDec => exact absurd (keyLoad_result s) h
  | _ => exact absurd rfl h

@[simp] theorem complete_irq (s : State) (r : Except CmdError (List Byte)) : (s.complete r).irq = s.ie := by
  simp [State.irq]

end Sys2Proof.Machine

/-! ## The command words of CTR_INC and GFMUL -/

namespace Sys2Proof

theorem opcode_of_instrOfOp {op : BitVec 5} {rnd : BitVec 4} {a b : Byte} {i : Instr}
    (h : instrOfOp op rnd a b = some i) : op = opcode i := by
  unfold instrOfOp at h
  split at h <;> cases h <;> exact BitVec.eq_of_toNat_eq ‹_›

/-- A word that decodes has the opcode of its command and passes every check of 30_encoding.md R106. -/
theorem fields_of_decode {w : Word} {i : Instr} (h : decode w = .ok i) :
    fieldOp w = opcode i ∧ reservedBitsZero w = true ∧ (opcode i ≠ 0x16 → fieldRnd w = 0) ∧
    (opcode i ≠ 0x0B → fieldA w = 0 ∧ fieldB w = 0) := by
  unfold decode at h
  split at h
  · cases h
  next j hj =>
  split at h
  · cases h
  next hres =>
  split at h
  · cases h
  split at h
  · cases h
  next hrnd =>
  split at h
  · cases h
  next hab =>
  cases h
  rw [opcode_of_instrOfOp hj] at hrnd hab
  exact ⟨opcode_of_instrOfOp hj, by simpa using hres, by tauto, by tauto⟩

/-- The low half of a command word, by its fields (30_encoding.md R100). -/
theorem lowHalf_eq_fields (w : Word) :
    w.extractLsb' 0 16 = w.extractLsb' 12 4 ++ fieldRnd w ++ w.extractLsb' 5 3 ++ fieldOp w := by
  ext i hi
  simp only [fieldRnd, fieldOp, BitVec.getElem_extractLsb']
  grind

theorem word_eq_fields (w : Word) : w = fieldA w ++ fieldB w ++ w.extractLsb' 0 16 := by
  ext i hi
  simp only [fieldA, fieldB]
  grind

/-- Except for ADDROUNDKEY the low half of a command's word is its opcode. -/
theorem lowHalf_of_decode {w : Word} {i : Instr} (h : decode w = .ok i) (hi : opcode i ≠ 0x16) :
    w.extractLsb' 0 16 = (opcode i).setWidth 16 := by
  obtain ⟨hop, hres, hrnd, _⟩ := fields_of_decode h
  obtain ⟨h5, h12⟩ : w.extractLsb' 5 3 = 0 ∧ w.extractLsb' 12 4 = 0 := by simpa [reservedBitsZero] using hres
  rw [lowHalf_eq_fields, h5, h12, hrnd hi, hop]
  ext i hi
  grind

theorem word_of_decode_ctrInc {w : Word} (h : decode w = .ok .ctrInc) : w = 0x0000000A := by
  obtain ⟨_, _, _, hab⟩ := fields_of_decode h
  obtain ⟨ha, hb⟩ := hab (by decide)
  rw [word_eq_fields w, ha, hb, lowHalf_of_decode h (by decide)]
  rfl

theorem lowHalf_of_decode_gfmul {w : Word} {a b : Byte} (h : decode w = .ok (.gfmul a b)) :
    w.extractLsb' 0 16 = 0x000B :=
  lowHalf_of_decode h (by simp [opcode])

/-! ## The obligations about what steps change -/

open Machine Stated

/-- Settles O51: `irq` after each kind of step, from the two flags it is made of. -/
theorem interruptFollowsEnableAndDone : Obligations.InterruptFollowsEnableAndDone := by
  unfold Obligations.InterruptFollowsEnableAndDone
  refine ⟨fun s => Bool.and_eq_true_iff, fun s t hp he ht => ?completion, fun s t v hp hw ht => ?ctrl,
    fun s t v hp hw hv ht => ?ack, fun s t v hp hw ht => ?issue, fun s t h ht => ?reset⟩
  case completion =>
    rw [step_of_engineNext he] at ht
    rcases engineTurn_cases s.advance with ⟨hidle, _⟩ | ⟨_, _, e⟩ | ⟨_, i, _, e⟩
    · cases hp.symm.trans hidle
    · cases e.symm.trans ht
      exact complete_irq s.advance (.error .illegalCommand)
    · cases e.symm.trans ht
      rw [complete_irq, commandRegisters_ie, advance_ie]
  case ctrl =>
    cases (step_of_writeNext hp hw).symm.trans ht
    rfl
  case ack =>
    cases (step_of_writeNext hp hw).symm.trans ht
    show (s.ie && (s.done && !v.getLsbD 1)) = false
    simp [hv]
  case issue =>
    cases (step_of_writeNext hp hw).symm.trans ht
    exact Bool.and_false s.ie
  case reset =>
    cases (step_of_reset h).symm.trans ht
    rfl

/-- Settles O52: of the writes only the one to CMD makes an IDLE engine BUSY, and of the transitions only host accesses
leave a BUSY one BUSY. -/
theorem busyIsFromIssueToCompletion : Obligations.BusyIsFromIssueToCompletion := by
  unfold Obligations.BusyIsFromIssueToCompletion
  intro s t ht
  obtain ⟨hbit, _⟩ := statusWord_flags t
  refine ⟨by rw [hbit, busyBit_eq_true_iff], ?_⟩
  cases step_transition ht with
  | read addr v hhead => simp [WriteNext, hhead]
  | outsideWrite addr v hhead hout => simp [not_writeNext_of_outside hhead hout, hhead]
  | busyWrite off v hw hp => simp [hp, hw.2]
  | idleWrite off v hw hp =>
    rw [writeTarget_phase_busy_iff (s := s.advance) hp, targetAt_eq_cmd_iff]
    simp [writeNext_iff hw, hp]
  | reset hhead => simp [WriteNext, hhead, State.reset]
  | idleTurn he hp => simp [hp, not_writeNext_of_engineNext he]
  | illegalCompletion he hp => simp [hp, head_ne_of_engineNext he]
  | completion i he hp hd => simp [hp, head_ne_of_engineNext he]

/-- Settles O53: each transition's DONE and BUSY_WR; a write while IDLE clears them only at CMD or STATUS
(`writeTarget_done_iff`, `writeTarget_busyWr_iff`). -/
theorem doneAndBusyWrFollowTheirEvents : Obligations.DoneAndBusyWrFollowTheirEvents := by
  unfold Obligations.DoneAndBusyWrFollowTheirEvents
  intro s t ht
  cases step_transition ht with
  | read addr v hhead => simp [WriteNext, hhead, engineNext_iff_of_head hhead]
  | outsideWrite addr v hhead hout =>
    simp [not_writeNext_of_outside hhead hout, hhead, engineNext_iff_of_head hhead]
  | busyWrite off v hw hp => simp [hp, hw.2, not_engineNext_of_writeNext hw, writeNext_iff hw]
  | idleWrite off v hw hp =>
    rw [writeTarget_done_iff, writeTarget_busyWr_iff, ne_eq, targetAt_eq_cmd_iff, targetAt_eq_status_iff]
    simp [writeNext_iff hw, hp, hw.2]
  | reset hhead => simp [WriteNext, hhead, engineNext_iff_of_head hhead, State.reset]
  | idleTurn he hp => simp [hp, not_writeNext_of_engineNext he, head_ne_of_engineNext he]
  | illegalCompletion he hp => simp [hp, he, not_writeNext_of_engineNext he, head_ne_of_engineNext he]
  | completion i he hp hd => simp [hp, he, not_writeNext_of_engineNext he, head_ne_of_engineNext he]

/-- Settles O54: of the transitions only a reset and a completion assign RK or KEY_VALID, and of the commands only those
that expand the key. -/
theorem scheduleChangesOnlyAtKeyExpansion : Obligations.ScheduleChangesOnlyAtKeyExpansion := by
  unfold Obligations.ScheduleChangesOnlyAtKeyExpansion
  intro s t ht hchange
  cases step_transition ht with
  | reset hhead => exact .inl hhead
  | completion i he hp hd =>
    cases hx : expandsKey i with
    | false =>
      obtain ⟨hrk, hkv⟩ := commandRegisters_schedule_of_not_expandsKey hx s.advance
      simp [hrk, hkv] at hchange
    | true =>
      rw [complete_rk, complete_keyValid, commandRegisters_of_expandsKey hx]
      refine .inr ⟨hp, he, i, hd, hx, fun hk => ?_, fun hk => ?_⟩
      · rw [keyLoad_ok (s := s.advance) hk]
        exact ⟨rfl, rfl⟩
      · rw [keyLoad_error (s := s.advance) hk]
        exact ⟨rfl, rfl⟩
  | _ => simp at hchange

/-- Settles O55: the transition that changes one of the three registers is its write, or the completion of its command,
whose word the decoder fixes. -/
theorem keyIvAndResultHaveFewWriters : Obligations.KeyIvAndResultHaveFewWriters := by
  unfold Obligations.KeyIvAndResultHaveFewWriters
  intro s t ht hreset
  cases step_transition ht with
  | reset hhead => exact absurd hhead hreset
  | idleWrite off v hw hp =>
    refine ⟨fun hkey => ?_, fun hiv => ?_, fun hres => absurd (writeTarget_result ..) hres⟩
    · obtain ⟨j, hj⟩ := writeTarget_key_of_ne (s := s.advance) hkey
      exact ⟨hp, off, v, hw, offset_of_targetAt_key hj⟩
    · obtain ⟨j, hj⟩ := writeTarget_iv_of_ne (s := s.advance) hiv
      exact .inl ⟨hp, off, v, hw, offset_of_targetAt_iv hj⟩
  | completion i he hp hd =>
    simp only [complete_key, commandRegisters_key, complete_iv, complete_result]
    refine ⟨fun hkey => absurd rfl hkey, fun hiv => ?_, fun hres => ?_⟩
    · cases commandRegisters_iv_of_ne (s := s.advance) hiv
      exact .inr ⟨hp, he, word_of_decode_ctrInc hd⟩
    · obtain ⟨a, b, rfl⟩ := commandRegisters_result_of_ne (s := s.advance) hres
      exact ⟨hp, he, lowHalf_of_decode_gfmul hd⟩
  | _ => simp

end Sys2Proof

/-! PROOF. What the register window ignores, the reads that change nothing and the aligned word of an access (O44, O45,
O48, O50), and the one event each step takes (O56). -/

namespace Sys2Proof.Machine

open Sys2Proof.Stated

variable {s : State}

/-! ## Host accesses as steps -/

theorem step_of_busRead {addr : Nat} (h : s.events.head? = some (.busRead addr)) :
    step s = .next (s.advance.hostRead addr) := by
  simp only [step, nextEvent_of_head h]

theorem step_of_busWrite {addr : Nat} {v : Word} (h : s.events.head? = some (.busWrite addr v)) :
    step s = .next (s.advance.hostWrite addr v) := by
  simp only [step, nextEvent_of_head h]

theorem busWriteAt_of_busy (hp : s.phase = .busy) (off : Offset) (v : Word) :
    s.busWriteAt off v = { s with busyWr := true } := by
  rw [State.busWriteAt, hp]

/-- A host write in the window while BUSY is dropped and sets BUSY_WR (70_reset_and_hazards.md R333). -/
theorem step_of_writeNext_busy {off : Nat} {v : Word} (hp : s.phase = .busy) (h : WriteNext s off v) :
    step s = .next { eventTaken s with busyWr := true } := by
  obtain ⟨hoff, hhead⟩ := h
  simp only [step_of_busWrite hhead, State.hostWrite, advance_config, windowOffset_base hoff,
    busWriteAt_of_busy (s := s.advance) hp]
  rfl

/-! ## The offsets that ignore writes -/

/-- What a write while IDLE leaves as it is: the read-only registers and what is no register (20_memory.md R76, R77). -/
def Target.ignoresWrites : Target → Bool
  | .id | .caps | .outLen | .result | .rk _ | .dout _ | .unmapped => true
  | .cmd | .status | .ctrl | .keyLen | .len | .key _ | .iv _ | .din _ => false

theorem writeTarget_of_ignoresWrites (s : State) (v : Word) {tgt : Target} (h : tgt.ignoresWrites = true) :
    s.writeTarget v tgt = s := by
  cases tgt with
  | id | caps | outLen | result | rk | dout | unmapped => rfl
  | cmd | status | ctrl | keyLen | len | key | iv | din => cases h

/-- A host write while IDLE at an offset that ignores writes. -/
theorem step_of_ignoredWrite {off : Nat} {v : Word} (hp : s.phase = .idle) (h : WriteNext s off v)
    (ht : (targetAt s.config.maxMsgBytes (off / 4 * 4)).ignoresWrites = true) : step s = .next (eventTaken s) := by
  rw [step_of_writeNext hp h, writeTarget_of_ignoresWrites _ _ ht]
  rfl

theorem ignoresWrites_of_readOnlyOffset {max off : Nat} (hmax : max ≤ 65536) (h : ReadOnlyOffset max off) :
    (targetAt max (off / 4 * 4)).ignoresWrites = true := by
  rcases h with hids | houtputs | hrk | hdout
  · obtain ha | ha : off / 4 * 4 = 0x00000 ∨ off / 4 * 4 = 0x00004 := by omega
    all_goals rw [ha]; rfl
  · obtain ha | ha : off / 4 * 4 = 0x0001C ∨ off / 4 * 4 = 0x00020 := by omega
    all_goals rw [ha]; rfl
  · rw [targetAt_rk max (by omega)]; rfl
  · rw [targetAt_dout (by omega) hmax]; rfl

/-- Past RESULT there is no single register. -/
theorem controlTarget_unmapped {a : Nat} (h : 0x00024 ≤ a) : controlTarget a = .unmapped := by
  unfold controlTarget
  split
  case h_10 => rfl
  all_goals omega

/-- The offsets that R76 lists are those the register map names no register for; the buffers end at a word. -/
theorem targetAt_of_unmappedOffset {max off : Nat} (hmul : max % 16 = 0) (h : UnmappedOffset max off) :
    targetAt max (off / 4 * 4) = .unmapped := by
  unfold UnmappedOffset at h
  by_cases hlow : off < 0x00030
  · rw [targetAt_control max (by omega), controlTarget_unmapped (by omega)]
  · exact targetAt_unmapped (by omega) (by omega) (by omega) (by omega)

/-! ## The aligned word of an access -/

/-- Decoding looks at `off[17:2]` only (20_memory.md R71). -/
theorem target_congr (c : Config) {off off' : Offset} (h : off.toNat / 4 = off'.toNat / 4) :
    target c off = target c off' := by
  rw [target, target, h]

/-- A read looks at `off[17:2]` only, its draw while BUSY included. -/
theorem busReadValue_congr (s : State) {off off' : Offset} (h : off.toNat / 4 = off'.toNat / 4) :
    s.busReadValue off = s.busReadValue off' := by
  simp only [State.busReadValue, target_congr _ h, h]

theorem busWriteAt_congr (s : State) (v : Word) {off off' : Offset} (h : off.toNat / 4 = off'.toNat / 4) :
    s.busWriteAt off v = s.busWriteAt off' v := by
  simp only [State.busWriteAt, target_congr _ h]

theorem ofNat_aligned {off : Nat} (h : off < 2 ^ 18) :
    (BitVec.ofNat 18 off).toNat / 4 = (BitVec.ofNat 18 (off / 4 * 4)).toNat / 4 := by
  simp only [BitVec.toNat_ofNat]
  omega

theorem hostRead_aligned (s : State) {off : Nat} (h : off < 2 ^ 18) :
    s.hostRead (s.config.aescBase + off) = s.hostRead (s.config.aescBase + off / 4 * 4) := by
  have haligned : off / 4 * 4 < 2 ^ 18 := by omega
  simp only [State.hostRead, windowOffset_base h, windowOffset_base haligned, busReadValue_congr s (ofNat_aligned h)]

theorem hostWrite_aligned (s : State) (v : Word) {off : Nat} (h : off < 2 ^ 18) :
    s.hostWrite (s.config.aescBase + off) v = s.hostWrite (s.config.aescBase + off / 4 * 4) v := by
  have haligned : off / 4 * 4 < 2 ^ 18 := by omega
  simp only [State.hostWrite, windowOffset_base h, windowOffset_base haligned, busWriteAt_congr s v (ofNat_aligned h)]

/-! ## What no operation touches: the parameters and the order of events -/

@[simp] theorem writeTarget_config (s : State) (v : Word) (tgt : Target) :
    (s.writeTarget v tgt).config = s.config := by cases tgt <;> rfl

@[simp] theorem writeTarget_events (s : State) (v : Word) (tgt : Target) :
    (s.writeTarget v tgt).events = s.events := by cases tgt <;> rfl

@[simp] theorem writeTarget_eventNo (s : State) (v : Word) (tgt : Target) :
    (s.writeTarget v tgt).eventNo = s.eventNo := by cases tgt <;> rfl

@[simp] theorem commandRegisters_events (i : Instr) (s : State) : (commandRegisters i s).events = s.events := by
  rw [commandRegisters_frame]

@[simp] theorem commandRegisters_eventNo (i : Instr) (s : State) : (commandRegisters i s).eventNo = s.eventNo := by
  rw [commandRegisters_frame]

end Sys2Proof.Machine

/-! ## The obligations about the window as a memory -/

namespace Sys2Proof

open Machine Stated

/-- Settles O44: each of the listed offsets selects a register that a write leaves as it is. -/
theorem readOnlyRegistersIgnoreWrites : Obligations.ReadOnlyRegistersIgnoreWrites := by
  unfold Obligations.ReadOnlyRegistersIgnoreWrites
  exact fun s off v hp ⟨_, _, hmax⟩ hro hw => step_of_ignoredWrite hp hw (ignoresWrites_of_readOnlyOffset hmax hro)

/-- Settles O45: the listed offsets select no register (`targetAt_of_unmappedOffset`); while BUSY a write is dropped
wherever it goes. -/
theorem unmappedOffsetsReadZeroAndIgnoreWrites : Obligations.UnmappedOffsetsReadZeroAndIgnoreWrites := by
  unfold Obligations.UnmappedOffsetsReadZeroAndIgnoreWrites
  intro s off v ⟨hmul, _, _⟩ hun
  have ht := targetAt_of_unmappedOffset hmul hun
  exact ⟨fun hp hr => step_of_readNext_idle hp hr (by rw [ht]; rfl),
    fun hp hw => step_of_ignoredWrite hp hw (by rw [ht]; rfl), step_of_writeNext_busy⟩

/-- Settles O48: a read in the window sets the answer, and one outside keeps the last (`hostRead_cases`). -/
theorem readsHaveNoSideEffects : Obligations.ReadsHaveNoSideEffects := by
  unfold Obligations.ReadsHaveNoSideEffects
  intro s addr hhead
  rw [step_of_busRead hhead]
  rcases hostRead_cases s.advance addr with ⟨off, _, e⟩ | ⟨_, e⟩ <;> rw [e]
  · exact ⟨s.advance.busReadValue off, rfl⟩
  · exact ⟨s.readData, rfl⟩

/-- Settles O50: both accesses look at the word of the offset only (`hostRead_aligned`, `hostWrite_aligned`). -/
theorem unalignedAccessesSelectTheAlignedWord : Obligations.UnalignedAccessesSelectTheAlignedWord := by
  unfold Obligations.UnalignedAccessesSelectTheAlignedWord
  intro s off v rest hoff
  exact ⟨congrArg Host.Outcome.next (hostRead_aligned { s with events := rest, eventNo := s.eventNo + 1 } hoff),
    congrArg Host.Outcome.next (hostWrite_aligned { s with events := rest, eventNo := s.eventNo + 1 } v hoff)⟩

/-- Settles O56: a step takes its event off the list before anything else, and no transition touches the list, its
counter or the parameters after that. -/
theorem eachStepTakesOneEvent : Obligations.EachStepTakesOneEvent := by
  unfold Obligations.EachStepTakesOneEvent
  intro s
  obtain ⟨t, ht⟩ := step_next s
  refine ⟨t, ht, ?_⟩
  cases step_transition ht with
  | read | outsideWrite | busyWrite | reset | idleTurn | illegalCompletion => exact ⟨rfl, rfl, rfl⟩
  | idleWrite off v hw hp => simp
  | completion i he hp hd => simp

end Sys2Proof

/-! PROOF. The decoder and the encoder, field by field (O1 to O5), and what a command leaves unchanged (O11, O23). -/

namespace Sys2Proof

/-! ## The four fields of a command and of its word -/

/-- The operand RND of a command, 0 where it has none (30_encoding.md R109). -/
def Instr.operandRnd : Instr → BitVec 4
  | .addRoundKey rnd => rnd
  | _ => 0

/-- The operand A of a command, 0 where it has none (30_encoding.md R109). -/
def Instr.operandA : Instr → Byte
  | .gfmul a _ => a
  | _ => 0

/-- The operand B of a command, 0 where it has none (30_encoding.md R109). -/
def Instr.operandB : Instr → Byte
  | .gfmul _ b => b
  | _ => 0

theorem encode_eq_encodeFields (i : Instr) :
    encode i = encodeFields (opcode i) i.operandRnd i.operandA i.operandB := by
  cases i <;> rfl

/-- The range check of ADDROUNDKEY, for every command at once: an absent RND is 0 (R104). -/
theorem wellFormed_iff (i : Instr) : i.wellFormed = true ↔ i.operandRnd.toNat ≤ 10 := by
  cases i with
  | addRoundKey rnd => exact decide_eq_true_iff
  | _ => exact iff_of_true rfl (Nat.zero_le 10)

theorem operandRnd_of_opcode_ne {i : Instr} (h : opcode i ≠ 0x16) : i.operandRnd = 0 := by
  cases i with
  | addRoundKey rnd => exact absurd rfl h
  | _ => rfl

theorem operandA_operandB_of_opcode_ne {i : Instr} (h : opcode i ≠ 0x0B) : i.operandA = 0 ∧ i.operandB = 0 := by
  cases i with
  | gfmul a b => exact absurd rfl h
  | _ => exact ⟨rfl, rfl⟩

theorem fieldRnd_encodeFields (op : BitVec 5) (rnd : BitVec 4) (a b : Byte) :
    fieldRnd (encodeFields op rnd a b) = rnd := by
  ext i hi
  simp only [fieldRnd, encodeFields, BitVec.getElem_extractLsb']
  grind

theorem fieldA_encodeFields (op : BitVec 5) (rnd : BitVec 4) (a b : Byte) :
    fieldA (encodeFields op rnd a b) = a := by
  ext i hi
  simp only [fieldA, encodeFields, BitVec.getElem_extractLsb']
  grind

theorem fieldB_encodeFields (op : BitVec 5) (rnd : BitVec 4) (a b : Byte) :
    fieldB (encodeFields op rnd a b) = b := by
  ext i hi
  simp only [fieldB, encodeFields, BitVec.getElem_extractLsb']
  grind

theorem reservedBitsZero_iff {w : Word} :
    reservedBitsZero w = true ↔ w.extractLsb' 5 3 = 0 ∧ w.extractLsb' 12 4 = 0 := by
  simp [reservedBitsZero]

/-- A word without reserved bits is made of its four fields (R100, R103). -/
theorem encodeFields_fields {w : Word} (h : reservedBitsZero w = true) :
    encodeFields (fieldOp w) (fieldRnd w) (fieldA w) (fieldB w) = w := by
  obtain ⟨h5, h12⟩ := reservedBitsZero_iff.mp h
  conv_rhs => rw [word_eq_fields w, lowHalf_eq_fields, h5, h12]
  ext i hi
  simp only [encodeFields]
  grind

/-! ## The opcode map and the decoder -/

theorem instrOfOp_operands (i : Instr) : instrOfOp (opcode i) i.operandRnd i.operandA i.operandB = some i := by
  cases i <;> rfl

/-- The opcode map takes each operand from the word or has none. -/
theorem operands_of_instrOfOp {op : BitVec 5} {rnd : BitVec 4} {a b : Byte} {i : Instr}
    (h : instrOfOp op rnd a b = some i) :
    (opcode i = 0x16 → i.operandRnd = rnd) ∧ (opcode i = 0x0B → i.operandA = a ∧ i.operandB = b) := by
  unfold instrOfOp at h
  split at h <;> cases h <;> simp [opcode, Instr.operandRnd, Instr.operandA, Instr.operandB]

/-- The decoder answers the command of the opcode map exactly when every check of R106 passes. -/
theorem decode_eq_ok_iff_checks {w : Word} {i : Instr} :
    decode w = .ok i ↔ instrOfOp (fieldOp w) (fieldRnd w) (fieldA w) (fieldB w) = some i ∧
      reservedBitsZero w = true ∧ (fieldOp w = 0x16 → (fieldRnd w).toNat ≤ 10) ∧
      (fieldOp w ≠ 0x16 → fieldRnd w = 0) ∧ (fieldOp w ≠ 0x0B → fieldA w = 0 ∧ fieldB w = 0) := by
  unfold decode
  cases instrOfOp (fieldOp w) (fieldRnd w) (fieldA w) (fieldB w) with
  | none => simp
  | some j =>
    dsimp only
    split_ifs with hres hrange hrnd hab
    · simp [hres]
    · simp [hrange]
    · exact iff_of_false nofun fun ⟨_, _, _, hzero, _⟩ => hrnd.2 (hzero hrnd.1)
    · refine iff_of_false nofun fun ⟨_, _, _, _, hzero⟩ => ?_
      obtain ⟨ha, hb⟩ := hzero hab.1
      exact hab.2.elim (absurd ha) (absurd hb)
    · simp only [Except.ok.injEq, Option.some.injEq, iff_self_and]
      exact fun _ => ⟨by simpa using hres, fun h => Nat.not_lt.mp fun hlt => hrange ⟨h, hlt⟩, by tauto, by tauto⟩

/-- Decoding, field by field: the word has the command's opcode and operands, no reserved bit, and RND in its range. -/
theorem decode_eq_ok_iff_fields {w : Word} {i : Instr} :
    decode w = .ok i ↔ i.wellFormed = true ∧ reservedBitsZero w = true ∧ fieldOp w = opcode i ∧
      fieldRnd w = i.operandRnd ∧ fieldA w = i.operandA ∧ fieldB w = i.operandB := by
  rw [decode_eq_ok_iff_checks, wellFormed_iff]
  constructor
  · rintro ⟨hmap, hres, hrange, hrnd, hab⟩
    have hop := opcode_of_instrOfOp hmap
    obtain ⟨hrnd', hab'⟩ := operands_of_instrOfOp hmap
    rw [hop] at hrange hrnd hab
    have hRnd : i.operandRnd.toNat ≤ 10 ∧ fieldRnd w = i.operandRnd := by
      by_cases h : opcode i = 0x16
      · rw [hrnd' h]
        exact ⟨hrange h, rfl⟩
      · rw [hrnd h, operandRnd_of_opcode_ne h]
        exact ⟨Nat.zero_le 10, rfl⟩
    have hAB : fieldA w = i.operandA ∧ fieldB w = i.operandB := by
      by_cases h : opcode i = 0x0B
      · obtain ⟨ha, hb⟩ := hab' h
        exact ⟨ha.symm, hb.symm⟩
      · obtain ⟨ha, hb⟩ := operandA_operandB_of_opcode_ne h
        rw [ha, hb]
        exact hab h
    exact ⟨hRnd.1, hres, hop, hRnd.2, hAB⟩
  · rintro ⟨hrange, hres, hop, hR, hA, hB⟩
    rw [hop, hR, hA, hB]
    exact ⟨instrOfOp_operands i, hres, fun _ => hrange, operandRnd_of_opcode_ne, operandA_operandB_of_opcode_ne⟩

/-- The decoder and the encoder are inverse to each other on the well-formed commands (R106, R109). -/
theorem decode_eq_ok_iff {w : Word} {i : Instr} : decode w = .ok i ↔ i.wellFormed = true ∧ encode i = w := by
  rw [decode_eq_ok_iff_fields, encode_eq_encodeFields]
  refine and_congr_right fun _ => ⟨?_, ?_⟩
  · rintro ⟨hres, hop, hrnd, ha, hb⟩
    rw [← hop, ← hrnd, ← ha, ← hb, encodeFields_fields hres]
  · rintro rfl
    obtain ⟨hop, hres⟩ :=
      Laws.EncodedFormat.encodeFields_format (opcode i) i.operandRnd i.operandA i.operandB
    exact ⟨hres, hop, fieldRnd_encodeFields .., fieldA_encodeFields .., fieldB_encodeFields ..⟩

/-! ## The numbers of the legal words -/

theorem toNat_append_eq_add {m n : Nat} (x : BitVec m) (y : BitVec n) :
    (x ++ y).toNat = x.toNat * 2 ^ n + y.toNat := by
  rw [BitVec.toNat_append, ← Nat.shiftLeft_add_eq_or_of_lt y.isLt, Nat.shiftLeft_eq]

/-- The fields of a command word do not overlap (R100). -/
theorem encodeFields_eq_append (op : BitVec 5) (rnd : BitVec 4) (a b : Byte) :
    encodeFields op rnd a b = a ++ b ++ 0#4 ++ rnd ++ 0#3 ++ op := by
  ext i hi
  simp only [encodeFields]
  grind

theorem encodeFields_toNat (op : BitVec 5) (rnd : BitVec 4) (a b : Byte) :
    (encodeFields op rnd a b).toNat = op.toNat + rnd.toNat * 2 ^ 8 + b.toNat * 2 ^ 16 + a.toNat * 2 ^ 24 := by
  rw [encodeFields_eq_append]
  simp only [toNat_append_eq_add, BitVec.toNat_ofNat]
  omega

theorem encode_addRoundKey_toNat (rnd : BitVec 4) :
    (encode (.addRoundKey rnd)).toNat = 0x16 + rnd.toNat * 2 ^ 8 :=
  (encodeFields_toNat 0x16 rnd 0 0).trans (by simp)

theorem encode_gfmul_toNat (a b : Byte) :
    (encode (.gfmul a b)).toNat = 0x0B + b.toNat * 2 ^ 16 + a.toNat * 2 ^ 24 :=
  (encodeFields_toNat 0x0B 0 a b).trans (by simp)

/-- A word with the number of a well-formed command's encoding decodes. -/
theorem decodes_of_toNat_eq {w : Word} {i : Instr} (hi : i.wellFormed = true) (h : w.toNat = (encode i).toNat) :
    ∃ i, decode w = .ok i :=
  ⟨i, decode_eq_ok_iff.mpr ⟨hi, BitVec.eq_of_toNat_eq h.symm⟩⟩

/-- The commands without operands fill the opcodes 0x00..0x0A and 0x10..0x15 (R101). -/
theorem decodes_of_toNat_le {w : Word} (h : w.toNat ≤ 0x0A ∨ (0x10 ≤ w.toNat ∧ w.toNat ≤ 0x15)) :
    ∃ i, decode w = .ok i := by
  have hw : w = BitVec.ofNat 32 w.toNat := by simp
  rw [hw]
  generalize w.toNat = n at h
  rcases h with h | ⟨h, h'⟩ <;> interval_cases n <;> exact ⟨_, rfl⟩

/-! ## The Illegal words -/

/-- The decoder knows no command with an opcode of R102. -/
theorem opcode_not_reserved (i : Instr) :
    opcode i ∉ ([0x0C, 0x0D, 0x0E, 0x0F, 0x17, 0x18, 0x19, 0x1A, 0x1B, 0x1C, 0x1D, 0x1E, 0x1F] :
      List (BitVec 5)) := by
  cases i <;> simp [opcode]

/-! ## The obligations about the encoding -/

/-- Settles O1: the encoding has the command's own fields, which pass every check (`decode_eq_ok_iff`). -/
theorem decodeOfEncodeIsIdentity : Obligations.DecodeOfEncodeIsIdentity := by
  unfold Obligations.DecodeOfEncodeIsIdentity
  exact fun i hi => decode_eq_ok_iff.mpr ⟨hi, rfl⟩

/-- Settles O2: the other direction of `decode_eq_ok_iff`. -/
theorem decodedWordIsItsEncoding : Obligations.DecodedWordIsItsEncoding := by
  unfold Obligations.DecodedWordIsItsEncoding
  exact fun w i => decode_eq_ok_iff.mp

/-- Settles O3: the legal words are the encodings of the well-formed commands (`decode_eq_ok_iff`), whose numbers are
those listed. -/
theorem legalWordsAreExactlyTheListed : Obligations.LegalWordsAreExactlyTheListed := by
  unfold Obligations.LegalWordsAreExactlyTheListed
  refine fun w => ⟨?_, ?_⟩
  · rintro ⟨i, hi⟩
    obtain ⟨hwf, rfl⟩ := decode_eq_ok_iff.mp hi
    cases i with
    | addRoundKey rnd =>
      exact .inr (.inr (.inl ⟨rnd.toNat, (wellFormed_iff _).mp hwf, encode_addRoundKey_toNat rnd⟩))
    | gfmul a b => exact .inr (.inr (.inr ⟨a.toNat, b.toNat, a.isLt, b.isLt, encode_gfmul_toNat a b⟩))
    | subBytes | invSubBytes | shiftRows | invShiftRows | mixColumns | invMixColumns =>
      exact .inr (.inl (by decide))
    | _ => exact .inl (by decide)
  · rintro (h | h | ⟨rnd, hrnd, h⟩ | ⟨a, b, ha, hb, h⟩)
    · exact decodes_of_toNat_le (.inl h)
    · exact decodes_of_toNat_le (.inr h)
    · have hn : (BitVec.ofNat 4 rnd).toNat = rnd := Nat.mod_eq_of_lt (by omega)
      refine decodes_of_toNat_eq (i := .addRoundKey (BitVec.ofNat 4 rnd)) ((wellFormed_iff _).mpr ?_) ?_
      · exact hn.trans_le hrnd
      · rw [h, encode_addRoundKey_toNat, hn]
    · refine decodes_of_toNat_eq (i := .gfmul (BitVec.ofNat 8 a) (BitVec.ofNat 8 b)) rfl ?_
      rw [h, encode_gfmul_toNat, BitVec.toNat_ofNat, BitVec.toNat_ofNat, Nat.mod_eq_of_lt ha, Nat.mod_eq_of_lt hb]

open Machine Stated

/-- Settles O4: a word that decodes passes every check (`decode_eq_ok_iff_checks`), so on none of these grounds can the
engine's turn run a command. -/
theorem illegalWordCompletesWithCodeSix : Obligations.IllegalWordCompletesWithCodeSix := by
  unfold Obligations.IllegalWordCompletesWithCodeSix
  intro s hp he hbad
  rw [step_of_engineNext he]
  rcases engineTurn_cases s.advance with ⟨hidle, _⟩ | ⟨_, _, e⟩ | ⟨_, i, hd, _⟩
  · cases hp.symm.trans hidle
  · exact ⟨_, e, rfl⟩
  · obtain ⟨hmap, hres, hrange, hrnd, hab⟩ := decode_eq_ok_iff_checks.mp hd
    obtain ⟨h5, h12⟩ := reservedBitsZero_iff.mp hres
    rcases hbad with h | h | h | h | h | h
    · exact absurd (opcode_of_instrOfOp hmap ▸ h) (opcode_not_reserved i)
    · exact absurd h5 h
    · exact absurd h12 h
    · exact absurd (hrange h.1) (Nat.not_le.mpr h.2)
    · exact absurd (hrnd h.1) h.2
    · obtain ⟨ha, hb⟩ := hab h.1
      exact h.2.elim (absurd hb) (absurd ha)

/-- Settles O5: the decoder evaluated on each word. -/
theorem specWordsDecode : Obligations.SpecWordsDecode := by
  unfold Obligations.SpecWordsDecode
  exact ⟨rfl, rfl, rfl, rfl, rfl, rfl, rfl, ⟨_, rfl⟩, ⟨_, rfl⟩, ⟨_, rfl⟩, ⟨_, rfl⟩, ⟨_, rfl⟩, ⟨_, rfl⟩⟩

end Sys2Proof

/-! ## What a command leaves unchanged -/

namespace Sys2Proof.Machine

@[simp] theorem commandRegisters_cmdq (i : Instr) (s : State) : (commandRegisters i s).cmdq = s.cmdq := by
  rw [commandRegisters_frame]

@[simp] theorem commandRegisters_keyLen (i : Instr) (s : State) : (commandRegisters i s).keyLen = s.keyLen := by
  rw [commandRegisters_frame]

@[simp] theorem commandRegisters_len (i : Instr) (s : State) : (commandRegisters i s).len = s.len := by
  rw [commandRegisters_frame]

@[simp] theorem commandRegisters_din (i : Instr) (s : State) : (commandRegisters i s).din = s.din := by
  rw [commandRegisters_frame]

@[simp] theorem commandRegisters_readData (i : Instr) (s : State) :
    (commandRegisters i s).readData = s.readData := by
  rw [commandRegisters_frame]

end Sys2Proof.Machine

namespace Sys2Proof

open Machine Stated

/-- Settles O11: a command assigns its registers and completes (`exec_eq_complete`); the completion touches none of
these fields, and the registers have one kind of writer each. -/
theorem commandsWriteOnlyTheirRegisters : Obligations.CommandsWriteOnlyTheirRegisters := by
  unfold Obligations.CommandsWriteOnlyTheirRegisters
  intro i s t ht
  cases (exec_eq_complete i s).symm.trans ht
  refine ⟨by simp, fun hgfmul => ?_, fun hinc => ?_, fun hx => ?_⟩
  · rw [complete_result]
    by_contra hne
    obtain ⟨a, b, rfl⟩ := commandRegisters_result_of_ne hne
    exact hgfmul a b rfl
  · rw [complete_iv]
    by_contra hne
    exact hinc (commandRegisters_iv_of_ne hne)
  · rw [complete_rk, complete_keyValid]
    exact commandRegisters_schedule_of_not_expandsKey hx s

/-- Settles O23: the range check of RND comes first (`checkRnd_error`). -/
theorem addRoundKeyRangeIsCheckedBeforeTheKey : Obligations.AddRoundKeyRangeIsCheckedBeforeTheKey := by
  unfold Obligations.AddRoundKeyRangeIsCheckedBeforeTheKey
  intro s rnd hrnd
  have hres : commandResult (.addRoundKey rnd) s = .error .illegalCommand := by
    rw [commandResult, checkRnd_error hrnd]
    rfl
  exact ⟨_, exec_eq_complete _ s, by rw [hres]; rfl⟩

end Sys2Proof

/-! PROOF. The dispatcher (40_dispatch.md): the step of a BUSY machine, runs of any length, and the failed completions
(O6 to O10, O14, O32). -/

namespace Sys2Proof.Machine

open Sys2Proof.Stated

variable {s t : State}

/-! ## The step of a BUSY machine -/

/-- The events that are the host's: a read or a write, at any address. -/
def Event.IsHostAccess (e : Event) : Prop := (∃ a, e = .busRead a) ∨ ∃ a v, e = .busWrite a v

theorem Event.isHostAccess_or_eq_engine {e : Event} (he : e ≠ .reset) : e.IsHostAccess ∨ e = .engine := by
  cases e with
  | busRead addr => exact .inl (.inl ⟨addr, rfl⟩)
  | busWrite addr v => exact .inl (.inr ⟨addr, v, rfl⟩)
  | engine => exact .inr rfl
  | reset => exact absurd rfl he

/-- A host access to a BUSY machine can set BUSY_WR or record an answer, and that is all (40_dispatch.md R134). -/
theorem step_of_hostAccess_busy {e : Event} (hp : s.phase = .busy) (hhead : s.events.head? = some e)
    (hhost : e.IsHostAccess) : ∃ b r, step s = .next { eventTaken s with busyWr := b, readData := r } := by
  rcases hhost with ⟨addr, rfl⟩ | ⟨addr, v, rfl⟩
  · rw [step_of_busRead hhead]
    rcases hostRead_cases s.advance addr with ⟨off, _, h⟩ | ⟨_, h⟩ <;> rw [h]
    · exact ⟨s.busyWr, s.advance.busReadValue off, rfl⟩
    · exact ⟨s.busyWr, s.readData, rfl⟩
  · rw [step_of_busWrite hhead]
    rcases hostWrite_cases s.advance addr v with ⟨_, _, ⟨_, h⟩ | ⟨hidle, _⟩⟩ | ⟨_, h⟩
    · exact ⟨true, s.readData, by rw [h]; rfl⟩
    · cases hp.symm.trans hidle
    · exact ⟨s.busyWr, s.readData, by rw [h]; rfl⟩

/-- The engine's turn ends a BUSY machine's command, whether the word is legal or not (40_dispatch.md R132). -/
theorem step_of_engineNext_busy (hp : s.phase = .busy) (he : EngineNext s) :
    ∃ t, step s = .next t ∧ t.phase = .idle ∧ t.done = true := by
  rw [step_of_engineNext he]
  rcases engineTurn_cases s.advance with ⟨hidle, _⟩ | ⟨_, _, h⟩ | ⟨_, i, _, h⟩
  · cases hp.symm.trans hidle
  · exact ⟨_, h, rfl, rfl⟩
  · exact ⟨_, h, complete_phase .., complete_done ..⟩

theorem engineTurn_of_decode {i : Instr} (hp : s.phase = .busy) (hd : decode s.cmdq = .ok i) :
    engineTurn s = exec i s := by
  simp only [engineTurn, hp, hd]

/-! ## Runs -/

/-- A run of AESC has a next state, whatever its length. -/
theorem run_next (n : Nat) (s : State) : ∃ t, Host.Core.run Sys2Proof.core n s = .next t := by
  induction n generalizing s with
  | zero => exact ⟨s, rfl⟩
  | succ n ih =>
    obtain ⟨u, hu⟩ := step_next s
    rw [run_succ n hu]
    exact ih u

/-- `n` host accesses to a BUSY machine leave it as it was but for BUSY_WR and the model's own fields. -/
theorem run_of_hostAccesses_busy {n : Nat} (hp : s.phase = .busy) (hn : n ≤ s.events.length)
    (hhost : ∀ e ∈ s.events.take n, e.IsHostAccess)
    (hrun : Host.Core.run Sys2Proof.core n s = .next t) :
    t = { s with busyWr := t.busyWr, readData := t.readData, events := s.events.drop n, eventNo := s.eventNo + n } := by
  induction n generalizing s with
  | zero => cases hrun; rfl
  | succ n ih =>
    obtain ⟨e, es, hes⟩ : ∃ e es, s.events = e :: es := List.exists_cons_of_length_pos (by omega)
    rw [hes, List.take_succ_cons, List.forall_mem_cons] at hhost
    obtain ⟨hfirst, hothers⟩ := hhost
    rw [hes, List.length_cons] at hn
    obtain ⟨b, r, hstep⟩ := step_of_hostAccess_busy hp (by rw [hes, List.head?_cons]) hfirst
    rw [run_succ n hstep] at hrun
    have htail : (eventTaken s).events = es := by rw [eventTaken, hes, List.tail_cons]
    have hrest := ih (s := { eventTaken s with busyWr := b, readData := r }) hp
      (by rw [htail]; omega) (by rw [htail]; exact hothers) hrun
    rw [hrest, htail, hes, List.drop_succ_cons, eventTaken, Nat.add_right_comm, Nat.add_assoc]

/-- After `n` steps from `s` the command in CMDQ completes, and not before. -/
def CompletesAfter (s : State) (n : Nat) : Prop :=
  0 < n ∧ (∃ t, Host.Core.run Sys2Proof.core n s = .next t ∧ t.phase = .idle ∧ t.done = true) ∧
  ∀ m < n, ∃ u, Host.Core.run Sys2Proof.core m s = .next u ∧ u.phase = .busy ∧ u.cmdq = s.cmdq

theorem completesAfter_one (hp : s.phase = .busy) (he : EngineNext s) : CompletesAfter s 1 := by
  obtain ⟨t, hstep, hidle, hdone⟩ := step_of_engineNext_busy hp he
  refine ⟨Nat.one_pos, ⟨t, run_succ 0 hstep, hidle, hdone⟩, fun m hm => ?_⟩
  obtain rfl : m = 0 := by omega
  exact ⟨s, rfl, hp, rfl⟩

theorem completesAfter_succ {u : State} {n : Nat} (hp : s.phase = .busy) (hstep : step s = .next u)
    (hcmdq : u.cmdq = s.cmdq) (h : CompletesAfter u n) : CompletesAfter s (n + 1) := by
  obtain ⟨_, ⟨t, hrun, hend⟩, hbefore⟩ := h
  refine ⟨Nat.succ_pos n, ⟨t, (run_succ n hstep).trans hrun, hend⟩, fun m hm => ?_⟩
  cases m with
  | zero => exact ⟨s, rfl, hp, rfl⟩
  | succ m =>
    rw [run_succ m hstep, ← hcmdq]
    exact hbefore m (by omega)

/-- The engine's turn comes after the listed host accesses at the latest (40_dispatch.md R132, log entry 6). -/
theorem exists_completesAfter (hp : s.phase = .busy) (hreset : .reset ∉ s.events) :
    ∃ n ≤ s.events.length + 1, CompletesAfter s n := by
  induction hes : s.events generalizing s with
  | nil => exact ⟨1, by simp, completesAfter_one hp (.inl hes)⟩
  | cons e es ih =>
    have hhead : s.events.head? = some e := by rw [hes, List.head?_cons]
    rw [hes, List.mem_cons, not_or] at hreset
    obtain ⟨he, hes_reset⟩ := hreset
    rcases Event.isHostAccess_or_eq_engine (Ne.symm he) with hhost | rfl
    · obtain ⟨b, r, hstep⟩ := step_of_hostAccess_busy hp hhead hhost
      have htail : (eventTaken s).events = es := by rw [eventTaken, hes, List.tail_cons]
      obtain ⟨n, hn, h⟩ := ih (s := { eventTaken s with busyWr := b, readData := r }) hp
        (by rw [htail]; exact hes_reset) htail
      exact ⟨n + 1, Nat.succ_le_succ hn, completesAfter_succ hp hstep rfl h⟩
    · exact ⟨1, by simp, completesAfter_one hp (.inr hhead)⟩

/-! ## Failed completions -/

/-- A command whose rule ends in an error keeps the registers it assigned and fails with the error's code. -/
theorem exec_failsWith (i : Instr) {s : State} {e : CmdError} (h : commandResult i s = .error e) :
    ∃ t, exec i s = .next t ∧ FailsWith (commandRegisters i s) t e.code :=
  ⟨_, exec_eq_complete i s, by rw [h]; rfl⟩

/-- A key-expanding command that fails after its key expansion keeps the key it loaded (42_cipher_core.md R183). -/
theorem exec_failsWith_keyLoaded {i : Instr} {s : State} {e : CmdError} (hx : expandsKey i = true)
    (hk : s.keyLen = 16) (h : commandResult i s = .error e) :
    ∃ t, exec i s = .next t ∧ FailsWith (keyLoaded s) t e.code := by
  have hreg : commandRegisters i s = keyLoaded s := (commandRegisters_of_expandsKey hx s).trans (keyLoad_ok hk)
  rw [← hreg]
  exact exec_failsWith i h

/-- The capacity check of a key-expanding command comes after the key expansion (60_exceptions.md R291). -/
theorem keyLoad_checkFits_error {n : Nat} (h : s.config.maxMsgBytes < n) :
    s.keyLoad.checkFits n = .error .capacityExceeded :=
  checkFits_error (by rwa [keyLoad_config])

end Sys2Proof.Machine

/-! ## The obligations about the dispatcher -/

namespace Sys2Proof

open Machine Stated

/-- Settles O6: a BUSY engine's turn on a word that decodes (`engineTurn_of_decode`). -/
theorem stepRunsTheDecodedCommand : Obligations.StepRunsTheDecodedCommand := by
  unfold Obligations.StepRunsTheDecodedCommand
  exact fun s i hp he hd => (step_of_engineNext he).trans (engineTurn_of_decode (s := s.advance) hp hd)

/-- Settles O7: offset 8 selects CMD, whose write is the issue; while BUSY every write is dropped. -/
theorem cmdWriteIssuesOnlyWhileIdle : Obligations.CmdWriteIssuesOnlyWhileIdle := by
  unfold Obligations.CmdWriteIssuesOnlyWhileIdle
  exact fun s w hw => ⟨fun hp => step_of_writeNext hp hw, fun hp => step_of_writeNext_busy hp hw⟩

/-- Settles O8, by induction on the coming events (`exists_completesAfter`). -/
theorem issuedCommandCompletesOnce : Obligations.IssuedCommandCompletesOnce := by
  unfold Obligations.IssuedCommandCompletesOnce
  exact fun s hp hreset => exists_completesAfter hp hreset

/-- Settles O9, by induction on the number of host accesses (`run_of_hostAccesses_busy`). -/
theorem inputsStayAsAtIssue : Obligations.InputsStayAsAtIssue := by
  unfold Obligations.InputsStayAsAtIssue
  exact fun s t n => run_of_hostAccesses_busy

/-- Settles O10, by induction on the length of the run: no step stops (`step_next`). -/
theorem noStepEverStops : Obligations.NoStepEverStops := by
  unfold Obligations.NoStepEverStops
  exact fun s n => run_next n s

/-- Settles O14: NOP is well formed and its encoding is the word 0 (`decode_eq_ok_iff`); it completes with no output. -/
theorem nopOnlyCompletes : Obligations.NopOnlyCompletes := by
  unfold Obligations.NopOnlyCompletes
  refine ⟨fun w => ?_, fun s => exec_eq_complete .nop s⟩
  have hword : encode .nop = 0 := rfl
  rw [decode_eq_ok_iff, hword]
  exact ⟨fun h => h.2.symm, fun h => ⟨rfl, h.symm⟩⟩

/-- Settles O32: of the checks only the one of KEY_LEN comes before the capacity's, and so the rule of each command ends
in CapacityExceeded (`exec_failsWith`, `exec_failsWith_keyLoaded`). -/
theorem oversizedMessagesAreRefused : Obligations.OversizedMessagesAreRefused := by
  unfold Obligations.OversizedMessagesAreRefused
  have hpad : padCount = padLength := rfl
  rw [hpad]
  intro s
  have keyed {i : Instr} (hx : expandsKey i = true) (hk : s.keyLen = 16)
      (h : commandResult i s = .error .capacityExceeded) : ∃ t, exec i s = .next t ∧ FailsWith (keyLoaded s) t 5 :=
    exec_failsWith_keyLoaded hx hk h
  refine ⟨fun hk hbig => keyed rfl hk ?cbcEnc, fun hbig => exec_failsWith .pad (e := .capacityExceeded) ?pad,
    fun hk hbig => ⟨keyed rfl hk ?cbcDec, keyed rfl hk ?ctrEnc, keyed rfl hk ?ctrDec⟩,
    fun hbig => exec_failsWith .unpad (e := .capacityExceeded) ?unpad⟩
  case pad | unpad => rw [commandResult, checkFits_error hbig]; rfl
  all_goals rw [commandResult, checkKeyLen_ok hk, keyLoad_checkFits_error hbig]; rfl

end Sys2Proof

/-! PROOF. GF(2^8) and the tables (41_field_tables.md): the field laws of gmul, the polynomial product it computes, and
the rules the tables follow (O24, O33, O34). -/

namespace Sys2Proof.Machine

open Sys2Proof.Stated

/-! ## Multiplication by x -/

/-- Adding `c` under a condition that is itself a sum splits over the two summands: what makes every reduction step
additive. -/
theorem ite_xor_distrib {n : Nat} (p q : Bool) (x y c : BitVec n) :
    (if (p ^^ q) = true then x ^^^ y ^^^ c else x ^^^ y) =
      (if p = true then x ^^^ c else x) ^^^ (if q = true then y ^^^ c else y) := by
  have hone : x ^^^ y ^^^ c = x ^^^ c ^^^ y := by ac_rfl
  have htwo : x ^^^ c ^^^ (y ^^^ c) = x ^^^ y := by
    calc x ^^^ c ^^^ (y ^^^ c) = x ^^^ y ^^^ (c ^^^ c) := by ac_rfl
      _ = x ^^^ y := by rw [BitVec.xor_self, BitVec.xor_zero]
  cases p <;> cases q
  case false.false => rfl
  case false.true => exact BitVec.xor_assoc x y c
  case true.false => exact hone
  case true.true => exact htwo.symm

theorem xtime_zero : xtime 0 = 0 := rfl

theorem xtime_xor (a b : Byte) : xtime (a ^^^ b) = xtime a ^^^ xtime b := by
  simp only [xtime, BitVec.getLsbD_xor, BitVec.shiftLeft_xor_distrib, ite_xor_distrib]

theorem xtime_iterate_xor (n : Nat) (a b : Byte) : xtime^[n] (a ^^^ b) = xtime^[n] a ^^^ xtime^[n] b :=
  Function.Semiconj₂.iterate xtime_xor n a b

/-! ## The product as a sum over the bits of its first operand -/

/-- The sum of x^i times `b` over the bits `i < n` of `a` that are 1: the accumulator of R150 after `n` turns. -/
def partialProduct (a b : Byte) : Nat → Byte
  | 0 => 0
  | n + 1 => if a.getLsbD n then partialProduct a b n ^^^ xtime^[n] b else partialProduct a b n

theorem foldl_gmulStep (a b : Byte) (n : Nat) :
    (List.range n).foldl (gmulStep a) (0, b) = (partialProduct a b n, xtime^[n] b) := by
  induction n with
  | zero => rfl
  | succ n ih =>
    rw [List.range_succ, List.foldl_append, ih, Function.iterate_succ_apply']
    rfl

theorem gmul_eq_partialProduct (a b : Byte) : gmul a b = partialProduct a b 8 := by
  rw [gmul, foldl_gmulStep]

theorem partialProduct_xor_left (a b c : Byte) (n : Nat) :
    partialProduct (a ^^^ b) c n = partialProduct a c n ^^^ partialProduct b c n := by
  induction n with
  | zero => exact BitVec.xor_self.symm
  | succ n ih => simp only [partialProduct, BitVec.getLsbD_xor, ih, ite_xor_distrib]

theorem partialProduct_xor_right (a b c : Byte) (n : Nat) :
    partialProduct a (b ^^^ c) n = partialProduct a b n ^^^ partialProduct a c n := by
  induction n with
  | zero => exact BitVec.xor_self.symm
  | succ n ih =>
    rw [partialProduct, partialProduct, partialProduct, ih, xtime_iterate_xor]
    split
    · ac_rfl
    · rfl

theorem partialProduct_xtime_right (a b : Byte) (n : Nat) :
    partialProduct a (xtime b) n = xtime (partialProduct a b n) := by
  induction n with
  | zero => exact xtime_zero.symm
  | succ n ih =>
    rw [partialProduct, partialProduct, ih, ← Function.iterate_succ_apply, Function.iterate_succ_apply']
    split
    · rw [xtime_xor]
    · rfl

theorem gmul_xor_left (a b c : Byte) : gmul (a ^^^ b) c = gmul a c ^^^ gmul b c := by
  simp only [gmul_eq_partialProduct, partialProduct_xor_left]

theorem gmul_xor_right (a b c : Byte) : gmul a (b ^^^ c) = gmul a b ^^^ gmul a c := by
  simp only [gmul_eq_partialProduct, partialProduct_xor_right]

theorem gmul_xtime_right (a b : Byte) : gmul a (xtime b) = xtime (gmul a b) := by
  simp only [gmul_eq_partialProduct, partialProduct_xtime_right]

/-- The powers of x that the bits of a byte select add up to the byte itself. -/
theorem gmul_one_right : ∀ a : Byte, gmul a 1 = a := by decide

/-! ## The field laws (R153) -/

/-- Every byte is a sum of powers of x, since it is its own product with 1. -/
theorem byte_induction {P : Byte → Prop} (one : P 1) (timesX : ∀ a, P a → P (xtime a))
    (xor : ∀ a b, P a → P b → P (a ^^^ b)) (a : Byte) : P a := by
  have powers (n : Nat) : P (xtime^[n] 1) := by
    induction n with
    | zero => exact one
    | succ n ih => rw [Function.iterate_succ_apply']; exact timesX _ ih
  have sums (n : Nat) : P (partialProduct a 1 n) := by
    induction n with
    | zero => exact xor 1 1 one one
    | succ n ih =>
      rw [partialProduct]
      split
      · exact xor _ _ ih (powers n)
      · exact ih
  rw [← gmul_one_right a, gmul_eq_partialProduct]
  exact sums 8

theorem gmul_xtime_left (a b : Byte) : gmul (xtime a) b = xtime (gmul a b) := by
  induction b using byte_induction with
  | one => rw [gmul_one_right, gmul_one_right]
  | timesX b ih => rw [gmul_xtime_right, gmul_xtime_right, ih]
  | xor b c ihb ihc => rw [gmul_xor_right, gmul_xor_right, xtime_xor, ihb, ihc]

theorem gmul_one_left (a : Byte) : gmul 1 a = a := by
  induction a using byte_induction with
  | one => rfl
  | timesX a ih => rw [gmul_xtime_right, ih]
  | xor a b iha ihb => rw [gmul_xor_right, iha, ihb]

theorem gmul_zero_left (a : Byte) : gmul 0 a = 0 := by
  calc gmul 0 a = gmul (1 ^^^ 1) a := rfl
    _ = 0 := by rw [gmul_xor_left, BitVec.xor_self]; rfl

theorem gmul_comm (a b : Byte) : gmul a b = gmul b a := by
  induction a using byte_induction with
  | one => rw [gmul_one_left, gmul_one_right]
  | timesX a ih => rw [gmul_xtime_left, gmul_xtime_right, ih]
  | xor a c iha ihc => rw [gmul_xor_left, gmul_xor_right, iha, ihc]

theorem gmul_assoc (a b c : Byte) : gmul a (gmul b c) = gmul (gmul a b) c := by
  induction a using byte_induction with
  | one => rw [gmul_one_left, gmul_one_left]
  | timesX a ih => rw [gmul_xtime_left, gmul_xtime_left, gmul_xtime_left, ih]
  | xor a d iha ihd => rw [gmul_xor_left, gmul_xor_left, gmul_xor_left, iha, ihd]

/-- A byte has one inverse at most: c = (b a) c = b (a c) = b. -/
theorem eq_of_gmul_eq_one {a b c : Byte} (hb : gmul a b = 1) (hc : gmul a c = 1) : c = b := by
  calc c = gmul (gmul b a) c := by rw [gmul_comm b a, hb, gmul_one_left]
    _ = b := by rw [← gmul_assoc, hc, gmul_one_right]

/-! ## The generating rule of SBOX and the field inverse (R157) -/

/-- The affine rule of R157. -/
def affineRule (y : Byte) : Byte := y ^^^ rotl8 y 1 ^^^ rotl8 y 2 ^^^ rotl8 y 3 ^^^ rotl8 y 4 ^^^ 0x63

/-- The byte the affine rule sends to `z`. -/
def undoAffineRule (z : Byte) : Byte := rotl8 z 1 ^^^ rotl8 z 3 ^^^ rotl8 z 6 ^^^ 0x05

theorem affineRule_undoAffineRule : ∀ z : Byte, affineRule (undoAffineRule z) = z := by decide

/-- The field inverse of a byte, with 0 for 0: the byte its SBOX entry was made from. -/
def fieldInverse (x : Byte) : Byte := undoAffineRule (sbox x)

theorem fieldInverse_zero : fieldInverse 0 = 0 := rfl

theorem gmul_fieldInverse : ∀ x : Byte, x ≠ 0 → gmul x (fieldInverse x) = 1 := by decide

theorem sbox_eq_affineRule_fieldInverse (x : Byte) : sbox x = affineRule (fieldInverse x) :=
  (affineRule_undoAffineRule (sbox x)).symm

theorem eq_fieldInverse {x y : Byte} (hzero : x = 0 → y = 0) (hinv : x ≠ 0 → gmul x y = 1) :
    y = fieldInverse x := by
  by_cases hx : x = 0
  · rw [hzero hx, hx, fieldInverse_zero]
  · exact eq_of_gmul_eq_one (gmul_fieldInverse x hx) (hinv hx)

/-! ## The entries of the tables -/

theorem invSbox_sbox : ∀ x : Byte, invSbox (sbox x) = x := by decide

theorem sbox_invSbox : ∀ x : Byte, sbox (invSbox x) = x := by decide

theorem sbox_ne_self : ∀ x : Byte, sbox x ≠ x := by decide

theorem rcon_succ : ∀ r < 10, 1 ≤ r → rcon (r + 1) = gmul (rcon r) 0x02 := by decide

/-! ## The product of polynomials and its remainder (R150) -/

/-- Cancel x^i by a multiple of the field's polynomial: one step of the long division. -/
def cancelTerm (p : BitVec 16) (i : Nat) : BitVec 16 := if p.getLsbD i then p ^^^ (0x11B#16 <<< (i - 8)) else p

/-- The remainder of a polynomial, as a byte. -/
def remainderByte (p : BitVec 16) : Byte := (polyRemainder p).setWidth 8

theorem cancelTerm_of_getLsbD_false {p : BitVec 16} {i : Nat} (h : p.getLsbD i = false) : cancelTerm p i = p := by
  rw [cancelTerm, h, if_neg Bool.false_ne_true]

theorem cancelTerm_xor (p q : BitVec 16) (i : Nat) :
    cancelTerm (p ^^^ q) i = cancelTerm p i ^^^ cancelTerm q i := by
  simp only [cancelTerm, BitVec.getLsbD_xor, ite_xor_distrib]

/-- Cancelling x^(i+1) in x times a polynomial is cancelling x^i in the polynomial. -/
theorem cancelTerm_shiftLeft_one (p : BitVec 16) {i : Nat} (hi : 8 ≤ i) (hi' : i < 15) :
    cancelTerm (p <<< 1) (i + 1) = cancelTerm p i <<< 1 := by
  have hbit : (p <<< 1).getLsbD (i + 1) = p.getLsbD i := by
    rw [BitVec.getLsbD_shiftLeft]
    simp [show i + 1 < 16 by omega]
  have hpoly : 0x11B#16 <<< (i + 1 - 8) = 0x11B#16 <<< (i - 8) <<< 1 := by
    rw [← BitVec.shiftLeft_add, Nat.sub_add_comm hi]
  rw [cancelTerm, cancelTerm, hbit, hpoly]
  split
  · rw [BitVec.shiftLeft_xor_distrib]
  · rfl

/-- Cancelling x^8 in x times a polynomial is multiplication by x of its low byte. -/
theorem cancelTerm_eight_shiftLeft_one (p : BitVec 16) :
    (cancelTerm (p <<< 1) 8).setWidth 8 = xtime (p.setWidth 8) := by
  have hbit : (p <<< 1).getLsbD 8 = (p.setWidth 8).getLsbD 7 := by simp
  have hlow : (p <<< 1).setWidth 8 = p.setWidth 8 <<< 1 := by
    ext i hi
    simp
  rw [cancelTerm, xtime, hbit]
  split
  · rw [BitVec.setWidth_xor, hlow]
    rfl
  · exact hlow

theorem polyRemainder_eq_foldl (p : BitVec 16) :
    polyRemainder p = [14, 13, 12, 11, 10, 9, 8].foldl cancelTerm p := rfl

theorem remainderByte_zero : remainderByte 0 = 0 := rfl

theorem remainderByte_xor (p q : BitVec 16) : remainderByte (p ^^^ q) = remainderByte p ^^^ remainderByte q := by
  simp only [remainderByte, polyRemainder_eq_foldl, List.foldl_cons, List.foldl_nil, cancelTerm_xor,
    BitVec.setWidth_xor]

/-- The remainder of a byte is the byte itself. -/
theorem remainderByte_setWidth (b : Byte) : remainderByte (b.setWidth 16) = b := by
  have hhigh (i : Nat) (hi : 8 ≤ i) : cancelTerm (b.setWidth 16) i = b.setWidth 16 :=
    cancelTerm_of_getLsbD_false (by simp [BitVec.getLsbD_of_ge b i hi])
  simp [remainderByte, polyRemainder_eq_foldl, hhigh]

/-- The remainder of x times a polynomial, where the long division begins at x^14. -/
theorem remainderByte_shiftLeft_one {p : BitVec 16} (h : p.getLsbD 14 = false) :
    remainderByte (p <<< 1) = xtime (remainderByte p) := by
  simp only [remainderByte, polyRemainder_eq_foldl, List.foldl_cons, List.foldl_nil, cancelTerm_of_getLsbD_false h]
  iterate 6 rw [cancelTerm_shiftLeft_one _ (by decide) (by decide)]
  rw [cancelTerm_eight_shiftLeft_one]

theorem remainderByte_shiftLeft (b : Byte) {i : Nat} (hi : i < 8) :
    remainderByte (b.setWidth 16 <<< i) = xtime^[i] b := by
  induction i with
  | zero => rw [BitVec.shiftLeft_zero, remainderByte_setWidth]; rfl
  | succ i ih =>
    have htop : (b.setWidth 16 <<< i).getLsbD 14 = false := by
      simp [BitVec.getLsbD_of_ge b (14 - i) (by omega)]
    rw [BitVec.shiftLeft_add, remainderByte_shiftLeft_one htop, ih (by omega), Function.iterate_succ_apply']

/-- Adding x^i times `b` to a polynomial if bit i of `a` is 1: one step of the product. -/
def addTerm (a b : Byte) (p : BitVec 16) (i : Nat) : BitVec 16 :=
  if a.getLsbD i then p ^^^ (b.setWidth 16 <<< i) else p

theorem polyProduct_eq_foldl (a b : Byte) : polyProduct a b = (List.range 8).foldl (addTerm a b) 0 := rfl

/-- The loop of R150 adds up the remainders of the product's terms. -/
theorem remainderByte_foldl_addTerm (a b : Byte) {n : Nat} (hn : n ≤ 8) :
    remainderByte ((List.range n).foldl (addTerm a b) 0) = partialProduct a b n := by
  induction n with
  | zero => exact remainderByte_zero
  | succ n ih =>
    rw [List.range_succ, List.foldl_append, List.foldl_cons, List.foldl_nil, partialProduct, ← ih (by omega), addTerm]
    split
    · rw [remainderByte_xor, remainderByte_shiftLeft b (by omega)]
    · rfl

/-- gmul multiplies as R150 says. -/
theorem gmul_eq_remainderByte (a b : Byte) : gmul a b = remainderByte (polyProduct a b) := by
  rw [gmul_eq_partialProduct, polyProduct_eq_foldl, remainderByte_foldl_addTerm a b (Nat.le_refl 8)]

theorem encode_gfmul (a b : Byte) : encode (.gfmul a b) = a ++ b ++ 0x000B#16 := by
  have hlow : (0x000B#16).toNat = 0x0B := rfl
  apply BitVec.eq_of_toNat_eq
  rw [encode_gfmul_toNat, toNat_append_eq_add, toNat_append_eq_add, hlow]
  omega

end Sys2Proof.Machine

namespace Sys2Proof

open Machine Stated

/-- Settles O24: the word is the encoding of GFMUL (`decode_eq_ok_iff`), which completes with no output and RESULT the
product; the loop adds up the remainders of the terms of the polynomial product (`gmul_eq_remainderByte`). -/
theorem gfmulGivesThePolynomialProduct : Obligations.GfmulGivesThePolynomialProduct := by
  unfold Obligations.GfmulGivesThePolynomialProduct
  intro a b s
  refine ⟨decode_eq_ok_iff.mpr ⟨rfl, encode_gfmul a b⟩, ?_⟩
  rw [← remainderByte, ← gmul_eq_remainderByte]
  exact exec_eq_complete (.gfmul a b) s

/-- Settles O33: each law holds for 1 and carries over to products with x and to sums (`byte_induction`); an inverse is
read off SBOX (`gmul_fieldInverse`), and by the other laws there is no second (`eq_of_gmul_eq_one`). -/
theorem gmulIsAFieldProduct : Obligations.GmulIsAFieldProduct := by
  unfold Obligations.GmulIsAFieldProduct
  exact ⟨gmul_comm, gmul_assoc, gmul_xor_right, fun a => ⟨gmul_zero_left a, gmul_one_left a⟩,
    fun a ha => ⟨fieldInverse a, gmul_fieldInverse a ha, fun _ => eq_of_gmul_eq_one (gmul_fieldInverse a ha)⟩⟩

/-- Settles O34: the tables are evaluated, and the `y` of the generating rule can only be the field inverse the entry
was made from (`eq_fieldInverse`). -/
theorem tablesFollowTheirRules : Obligations.TablesFollowTheirRules := by
  unfold Obligations.TablesFollowTheirRules
  refine ⟨fun x => ⟨invSbox_sbox x, sbox_invSbox x, sbox_ne_self x⟩,
    ⟨rfl, rfl, fun r h1 h10 => rcon_succ r h10 h1⟩, fun x y hzero hinv => ?_⟩
  rw [eq_fieldInverse hzero hinv]
  exact sbox_eq_affineRule_fieldInverse x

end Sys2Proof

/-! PROOF. The cipher core (42_cipher_core.md): key expansion, the bytes of the round operations and their inverses, and
the block transformations (O15 to O22, O35, O36). -/

namespace Sys2Proof.Machine

open Sys2Proof.Stated

/-! ## Successful completions -/

theorem finish_completesWith (s : State) {bs : List Byte} {out : Nat → Byte}
    (hout : ∀ k (hk : k < bs.length), bs[k] = out k) : CompletesWith s (s.finish bs) bs.length out := by
  refine ⟨fun k hk => ?_, fun k hk => ?_, rfl⟩
  · rw [finish_dout, ← hout k hk, ← read_writeBytes_inside hk, Nat.zero_add]
  · rw [finish_dout, read_writeBytes_outside (by omega)]

/-- A command whose rule ends in an output keeps the registers it assigned and completes with the output. -/
theorem exec_completesWith (i : Instr) {s : State} {bs : List Byte} {out : Nat → Byte}
    (h : commandResult i s = .ok bs) (hout : ∀ k (hk : k < bs.length), bs[k] = out k) :
    ∃ t, exec i s = .next t ∧ CompletesWith (commandRegisters i s) t bs.length out :=
  ⟨_, exec_eq_complete i s, by rw [h]; exact finish_completesWith _ hout⟩

/-- A command whose output is one block. -/
theorem exec_completesWith_block (i : Instr) {s : State} {b : Block} {out : Nat → Byte}
    (h : commandResult i s = .ok b.bytes) (hout : ∀ k < 16, b.byte k = out k) :
    ∃ t, exec i s = .next t ∧ CompletesWith (commandRegisters i s) t 16 out :=
  exec_completesWith i h fun k hk => by rw [← hout k hk, Block.byte, List.getD_eq_getElem]

/-! ## The checks of the key (R183, R190) -/

/-- The check of KEY_LEN is the first of every key-expanding command (60_exceptions.md R291). -/
theorem commandResult_of_keyLen_ne {i : Instr} {s : State} (hx : expandsKey i = true) (hk : s.keyLen ≠ 16) :
    commandResult i s = .error .invalidKeyLength := by
  cases i with
  | setkey | cbcEnc | cbcDec | ctrEnc | ctrDec => rw [commandResult, checkKeyLen_error hk]; rfl
  | _ => cases hx

theorem commandResult_encBlock {s : State} (hk : s.keyValid = true) :
    commandResult .encBlock s = .ok (cipher s.schedule s.dinBlock).bytes := by
  rw [commandResult, requireKey_ok hk]; rfl

theorem commandResult_decBlock {s : State} (hk : s.keyValid = true) :
    commandResult .decBlock s = .ok (invCipher s.schedule s.dinBlock).bytes := by
  rw [commandResult, requireKey_ok hk]; rfl

theorem commandResult_addRoundKey {s : State} {rnd : BitVec 4} (hk : s.keyValid = true) (hr : rnd.toNat < 11) :
    commandResult (.addRoundKey rnd) s = .ok (addRoundKey s.schedule s.dinBlock ⟨rnd.toNat, hr⟩).bytes := by
  rw [commandResult, checkRnd_ok hr, requireKey_ok hk]; rfl

/-- Without a valid key each command that reads RK ends in NoKey. -/
theorem commandResult_of_not_keyValid {i : Instr} {s : State}
    (hi : i = .encBlock ∨ i = .decBlock ∨ ∃ rnd, i = .addRoundKey rnd ∧ rnd.toNat ≤ 10) (hk : s.keyValid = false) :
    commandResult i s = .error .noKey := by
  rcases hi with rfl | rfl | ⟨rnd, rfl, hr⟩
  · rw [commandResult, requireKey_error hk]; rfl
  · rw [commandResult, requireKey_error hk]; rfl
  · rw [commandResult, checkRnd_ok (Nat.lt_succ_of_le hr), requireKey_error hk]; rfl

/-! ## Key expansion (R180, R181) -/

theorem bytes32_rotWord (w : Word) :
    bytes32 (rotWord w) = ⟨(bytes32 w).a1, (bytes32 w).a2, (bytes32 w).a3, (bytes32 w).a0⟩ := by
  simp only [bytes32, rotWord, Column.mk.injEq]
  refine ⟨?_, ?_, ?_, ?_⟩ <;>
    (ext i hi; simp only [BitVec.getElem_extractLsb']; grind)

/-- RCON is added to the first byte of a word. -/
theorem be32_xor_firstByte (c : Column) (x : Byte) :
    be32 c ^^^ (x.setWidth 32 <<< 24) = be32 { c with a0 := c.a0 ^^^ x } := by
  simp only [be32]
  ext i hi
  grind

/-- Where 4 divides i, `temp` is the previous word rotated, substituted and added to RCON[i/4], byte by byte. -/
theorem expandTemp_eq (i : Nat) (prev : Word) :
    expandTemp i prev =
      if i % 4 = 0 then
        be32 ⟨sbox (bytes32 prev).a1 ^^^ rcon (i / 4), sbox (bytes32 prev).a2, sbox (bytes32 prev).a3,
          sbox (bytes32 prev).a0⟩
      else prev := by
  rw [expandTemp, subWord, bytes32_rotWord, be32_xor_firstByte]
  rfl

/-- The words of the schedule after `n` turns of the loop, latest first. -/
def wordsAfter (key : Block) (n : Nat) : List Word :=
  (List.range' 4 n).foldl expandStep [be32 key.c3, be32 key.c2, be32 key.c1, be32 key.c0]

theorem wordsAfter_succ (key : Block) (n : Nat) :
    wordsAfter key (n + 1) = expandStep (wordsAfter key n) (n + 4) := by
  rw [wordsAfter, List.range'_1_concat, List.foldl_append, Nat.add_comm n 4]
  rfl

/-- Later turns move a word back in the list and do not change it. -/
theorem wordsAfter_getD_add (key : Block) (n j m : Nat) :
    (wordsAfter key (n + m)).getD (j + m) 0 = (wordsAfter key n).getD j 0 := by
  induction m with
  | zero => rfl
  | succ m ih => rw [← ih, ← Nat.add_assoc n, wordsAfter_succ]; rfl

theorem keyExpansion_getElem (key : Block) {i : Nat} (hi : i < 44) :
    (keyExpansion key)[i] = (wordsAfter key 40).getD (43 - i) 0 := by
  have hlen := expandedWords_length key
  have hlist : (keyExpansion key)[i] = (expandedWords key).reverse[i]'(by rw [List.length_reverse, hlen]; exact hi) :=
    rfl
  rw [hlist, List.getElem_reverse, ← List.getD_eq_getElem _ 0, hlen]
  rfl

/-- After `n` turns the word at place j of the list is word n + 3 - j of the schedule. -/
theorem keyExpansion_getElem_eq_wordsAfter (key : Block) {n i j : Nat} (hi : i < 44) (hn : n ≤ 40)
    (hj : i + j = n + 3) : (keyExpansion key)[i] = (wordsAfter key n).getD j 0 := by
  have hplace : 43 - i = j + (40 - n) := by omega
  rw [keyExpansion_getElem key hi, hplace, ← wordsAfter_getD_add key n j (40 - n), Nat.add_sub_cancel' hn]

theorem keyExpansion_firstWords (key : Block) :
    (keyExpansion key)[0] = be32 key.c0 ∧ (keyExpansion key)[1] = be32 key.c1 ∧
    (keyExpansion key)[2] = be32 key.c2 ∧ (keyExpansion key)[3] = be32 key.c3 := by
  have first {i j : Nat} (hi : i < 44) (hj : i + j = 3) : (keyExpansion key)[i] = (wordsAfter key 0).getD j 0 :=
    keyExpansion_getElem_eq_wordsAfter key hi (Nat.zero_le 40) hj
  exact ⟨first (j := 3) (by decide) rfl, first (j := 2) (by decide) rfl, first (j := 1) (by decide) rfl,
    first (j := 0) (by decide) rfl⟩

/-- The recurrence of R181. -/
theorem keyExpansion_recurrence (key : Block) {i : Nat} (h4 : 4 ≤ i) (hi : i < 44) :
    (keyExpansion key)[i] = (keyExpansion key)[i - 4] ^^^ expandTemp i (keyExpansion key)[i - 1] := by
  obtain ⟨n, rfl⟩ := Nat.exists_eq_add_of_le' h4
  rw [keyExpansion_getElem_eq_wordsAfter key (n := n + 1) (j := 0) hi (by omega) rfl,
    keyExpansion_getElem_eq_wordsAfter key (n := n) (i := n + 4 - 4) (j := 3) (by omega) (by omega) rfl,
    keyExpansion_getElem_eq_wordsAfter key (n := n) (i := n + 4 - 1) (j := 0) (by omega) (by omega) rfl,
    wordsAfter_succ]
  rfl

/-! ## The bytes of the round operations (R184 to R191) -/

theorem map_byte (f : Byte → Byte) (b : Block) {k : Nat} (hk : k < 16) : (b.map f).byte k = f (b.byte k) := by
  interval_cases k <;> rfl

theorem xor_byte (b d : Block) {k : Nat} (hk : k < 16) : (b.xor d).byte k = b.byte k ^^^ d.byte k := by
  interval_cases k <;> rfl

theorem shiftRows_byte (b : Block) {k : Nat} (hk : k < 16) :
    (shiftRows b).byte k = b.byte (k % 4 + 4 * ((k / 4 + k % 4) % 4)) := by
  interval_cases k <;> rfl

theorem invShiftRows_byte (b : Block) {k : Nat} (hk : k < 16) :
    (invShiftRows b).byte k = b.byte (k % 4 + 4 * ((k / 4 + 4 - k % 4) % 4)) := by
  interval_cases k <;> rfl

/-- Byte j, most significant first, of word 4r + c covers row j of column c (R182). -/
theorem roundKeyBytes_byte (w : Schedule) (r : Fin 11) {k : Nat} (hk : k < 16) :
    (roundKeyBytes w r).byte k = wordByte (w.toList.getD (4 * r.val + k / 4) 0) (k % 4) := by
  have hword : 4 * r.val + k / 4 < w.toList.length := by rw [Vector.length_toList]; omega
  rw [List.getD_eq_getElem _ _ hword, Vector.getElem_toList]
  interval_cases k <;> rfl

/-! ## Columns under a circulant matrix (R188, R189) -/

/-- The product of a column with the circulant matrix whose first row is `m`. -/
def circulantColumn (m a : Column) : Column :=
  ⟨gmul m.a0 a.a0 ^^^ gmul m.a1 a.a1 ^^^ gmul m.a2 a.a2 ^^^ gmul m.a3 a.a3,
   gmul m.a3 a.a0 ^^^ gmul m.a0 a.a1 ^^^ gmul m.a1 a.a2 ^^^ gmul m.a2 a.a3,
   gmul m.a2 a.a0 ^^^ gmul m.a3 a.a1 ^^^ gmul m.a0 a.a2 ^^^ gmul m.a1 a.a3,
   gmul m.a1 a.a0 ^^^ gmul m.a2 a.a1 ^^^ gmul m.a3 a.a2 ^^^ gmul m.a0 a.a3⟩

/-- Each column of a block under the circulant matrix whose first row is `m`. -/
def circulantBlock (m : Column) (b : Block) : Block :=
  ⟨circulantColumn m b.c0, circulantColumn m b.c1, circulantColumn m b.c2, circulantColumn m b.c3⟩

theorem gmul_two_left (a : Byte) : gmul 0x02 a = xtime a := by
  calc gmul 0x02 a = gmul (xtime 1) a := rfl
    _ = xtime a := by rw [gmul_xtime_left, gmul_one_left]

theorem gmul_three_left (a : Byte) : gmul 0x03 a = x3 a := by
  calc gmul 0x03 a = gmul (0x02 ^^^ 1) a := rfl
    _ = x3 a := by rw [gmul_xor_left, gmul_two_left, gmul_one_left, x3]

theorem mixColumn_eq_circulantColumn (a : Column) : mixColumn a = circulantColumn ⟨0x02, 0x03, 0x01, 0x01⟩ a := by
  simp only [circulantColumn, gmul_two_left, gmul_three_left, gmul_one_left, mixColumn]

theorem mixColumns_eq_circulantBlock (b : Block) : mixColumns b = circulantBlock ⟨0x02, 0x03, 0x01, 0x01⟩ b := by
  simp only [mixColumns, circulantBlock, mixColumn_eq_circulantColumn]

theorem invMixColumns_eq_circulantBlock (b : Block) :
    invMixColumns b = circulantBlock ⟨0x0e, 0x0b, 0x0d, 0x09⟩ b := rfl

theorem circulantBlock_dinBlock_byte (m : Column) (s : State) {k : Nat} (hk : k < 16) :
    (circulantBlock m s.dinBlock).byte k = rowProduct m.bytes s (k % 4) (k / 4) := by
  interval_cases k <;> rfl

/-- The first row of the product of two circulant matrices, each given by its first row. -/
def circulantProduct (m n : Column) : Column :=
  ⟨gmul m.a0 n.a0 ^^^ gmul m.a1 n.a3 ^^^ gmul m.a2 n.a2 ^^^ gmul m.a3 n.a1,
   gmul m.a0 n.a1 ^^^ gmul m.a1 n.a0 ^^^ gmul m.a2 n.a3 ^^^ gmul m.a3 n.a2,
   gmul m.a0 n.a2 ^^^ gmul m.a1 n.a1 ^^^ gmul m.a2 n.a0 ^^^ gmul m.a3 n.a3,
   gmul m.a0 n.a3 ^^^ gmul m.a1 n.a2 ^^^ gmul m.a2 n.a1 ^^^ gmul m.a3 n.a0⟩

theorem circulantColumn_circulantColumn (m n a : Column) :
    circulantColumn m (circulantColumn n a) = circulantColumn (circulantProduct m n) a := by
  simp only [circulantColumn, circulantProduct, gmul_xor_left, gmul_xor_right, gmul_assoc, Column.mk.injEq]
  refine ⟨?_, ?_, ?_, ?_⟩ <;> ac_rfl

theorem circulantColumn_one (a : Column) : circulantColumn ⟨1, 0, 0, 0⟩ a = a := by
  simp only [circulantColumn, gmul_one_left, gmul_zero_left]
  simp

/-- Where the product of two circulant matrices is the unit matrix, each undoes the other. -/
theorem circulantBlock_circulantBlock_cancel {m n : Column} (h : circulantProduct m n = ⟨1, 0, 0, 0⟩) (b : Block) :
    circulantBlock m (circulantBlock n b) = b := by
  simp only [circulantBlock, circulantColumn_circulantColumn, h, circulantColumn_one]

/-! ## Each round operation and its inverse -/

theorem invMixColumns_mixColumns (b : Block) : invMixColumns (mixColumns b) = b := by
  rw [mixColumns_eq_circulantBlock, invMixColumns_eq_circulantBlock]
  exact circulantBlock_circulantBlock_cancel (by decide) b

theorem mixColumns_invMixColumns (b : Block) : mixColumns (invMixColumns b) = b := by
  rw [mixColumns_eq_circulantBlock, invMixColumns_eq_circulantBlock]
  exact circulantBlock_circulantBlock_cancel (by decide) b

theorem invShiftRows_shiftRows (b : Block) : invShiftRows (shiftRows b) = b := rfl

theorem shiftRows_invShiftRows (b : Block) : shiftRows (invShiftRows b) = b := rfl

theorem invSubBytes_subBytes (b : Block) : invSubBytes (subBytes b) = b :=
  Block.ext_byte fun k hk => by rw [invSubBytes, subBytes, map_byte _ _ hk, map_byte _ _ hk, invSbox_sbox]

theorem subBytes_invSubBytes (b : Block) : subBytes (invSubBytes b) = b :=
  Block.ext_byte fun k hk => by rw [invSubBytes, subBytes, map_byte _ _ hk, map_byte _ _ hk, sbox_invSbox]

theorem addRoundKey_addRoundKey (w : Schedule) (b : Block) (r : Fin 11) :
    addRoundKey w (addRoundKey w b r) r = b :=
  Block.ext_byte fun k hk => by
    rw [addRoundKey, addRoundKey, xor_byte _ _ hk, xor_byte _ _ hk, BitVec.xor_assoc, BitVec.xor_self, BitVec.xor_zero]

/-! ## The rounds (R192 to R194) -/

/-- The unkeyed part that every round of Cipher has, the last one too. -/
def shiftedSubBytes (b : Block) : Block := shiftRows (subBytes b)

/-- The unkeyed part that every round of InvCipher has. -/
def invShiftedSubBytes (b : Block) : Block := invSubBytes (invShiftRows b)

theorem invShiftedSubBytes_shiftedSubBytes (b : Block) : invShiftedSubBytes (shiftedSubBytes b) = b := by
  rw [invShiftedSubBytes, shiftedSubBytes, invShiftRows_shiftRows, invSubBytes_subBytes]

theorem shiftedSubBytes_invShiftedSubBytes (b : Block) : shiftedSubBytes (invShiftedSubBytes b) = b := by
  rw [invShiftedSubBytes, shiftedSubBytes, subBytes_invSubBytes, shiftRows_invShiftRows]

theorem cipherRound_eq (w : Schedule) (b : Block) (r : Fin 11) :
    cipherRound w b r = addRoundKey w (mixColumns (shiftedSubBytes b)) r := rfl

theorem invCipherRound_eq (w : Schedule) (b : Block) (r : Fin 11) :
    invCipherRound w b r = invMixColumns (addRoundKey w (invShiftedSubBytes b) r) := rfl

/-- The numbers of Cipher's full rounds, in order; InvCipher counts them down. -/
def fullRounds : List (Fin 11) := [1, 2, 3, 4, 5, 6, 7, 8, 9]

theorem cipher_eq (w : Schedule) (b : Block) :
    cipher w b =
      addRoundKey w (shiftedSubBytes (fullRounds.foldl (cipherRound w) (addRoundKey w b 0))) 10 := rfl

theorem invCipher_eq (w : Schedule) (b : Block) :
    invCipher w b =
      addRoundKey w (invShiftedSubBytes (fullRounds.reverse.foldl (invCipherRound w) (addRoundKey w b 10))) 0 := rfl

/-- A round of Cipher ends with its round key and one of InvCipher begins with the unkeyed part, so an inverse round
undoes a round up to the unkeyed part of the next. -/
theorem invCipherRound_shiftedSubBytes_cipherRound (w : Schedule) (b : Block) (r : Fin 11) :
    invCipherRound w (shiftedSubBytes (cipherRound w b r)) r = shiftedSubBytes b := by
  rw [invCipherRound_eq, invShiftedSubBytes_shiftedSubBytes, cipherRound_eq, addRoundKey_addRoundKey,
    invMixColumns_mixColumns]

theorem cipherRound_invShiftedSubBytes_invCipherRound (w : Schedule) (b : Block) (r : Fin 11) :
    cipherRound w (invShiftedSubBytes (invCipherRound w b r)) r = invShiftedSubBytes b := by
  rw [cipherRound_eq, shiftedSubBytes_invShiftedSubBytes, invCipherRound_eq, mixColumns_invMixColumns,
    addRoundKey_addRoundKey]

/-- Where `g` undoes one turn of `f` between two values of `h`, the turns of `g` in the reverse order undo a loop. -/
theorem foldl_reverse_undoes {α ρ : Type} {f g : α → ρ → α} {h : α → α} (undo : ∀ x r, g (h (f x r)) r = h x)
    (rs : List ρ) (x : α) : rs.reverse.foldl g (h (rs.foldl f x)) = h x := by
  induction rs generalizing x with
  | nil => rfl
  | cons r rs ih =>
    rw [List.foldl_cons, List.reverse_cons, List.foldl_append, ih]
    exact undo x r

theorem invCipher_cipher (w : Schedule) (b : Block) : invCipher w (cipher w b) = b := by
  rw [invCipher_eq, cipher_eq, addRoundKey_addRoundKey,
    foldl_reverse_undoes (invCipherRound_shiftedSubBytes_cipherRound w), invShiftedSubBytes_shiftedSubBytes,
    addRoundKey_addRoundKey]

theorem cipher_invCipher (w : Schedule) (b : Block) : cipher w (invCipher w b) = b := by
  have hrounds := foldl_reverse_undoes (cipherRound_invShiftedSubBytes_invCipherRound w) fullRounds.reverse
    (addRoundKey w b 10)
  rw [List.reverse_reverse] at hrounds
  rw [cipher_eq, invCipher_eq, addRoundKey_addRoundKey, hrounds, shiftedSubBytes_invShiftedSubBytes,
    addRoundKey_addRoundKey]

/-- A sequence that makes one turn of a loop at each place ends where the loop does. -/
theorem foldl_eq_of_turns {α ρ : Type} {f : α → ρ → α} (rs : List ρ) (x : Nat → α)
    (turn : ∀ i (hi : i < rs.length), x (i + 1) = f (x i) rs[i]) : rs.foldl f (x 0) = x rs.length := by
  induction rs generalizing x with
  | nil => rfl
  | cons r rs ih =>
    have hfirst : x 1 = f (x 0) r := turn 0 (Nat.succ_pos _)
    rw [List.foldl_cons, List.length_cons, ← hfirst]
    exact ih (fun i => x (i + 1)) fun i hi => turn (i + 1) (Nat.succ_lt_succ hi)

end Sys2Proof.Machine

/-! ## The obligations about the cipher core -/

namespace Sys2Proof

open Machine Stated

/-- Settles O15: with KEY_LEN = 16 SETKEY assigns the expanded key and completes; the words of the loop are not changed
after they are made (`keyExpansion_recurrence`). -/
theorem setkeyExpandsTheKey : Obligations.SetkeyExpandsTheKey := by
  unfold Obligations.SetkeyExpandsTheKey
  intro s hk
  have hreg : commandRegisters .setkey s = keyLoaded s := keyLoad_ok hk
  have hres : commandResult .setkey s = .ok [] := by rw [commandResult, checkKeyLen_ok hk]; rfl
  obtain ⟨h0, h1, h2, h3⟩ := keyExpansion_firstWords s.key
  refine ⟨_, keyExpansion s.key, exec_eq_complete .setkey s, by rw [hreg, hres]; rfl, h0, h1, h2, h3,
    fun i h4 hi => ?_⟩
  rw [keyExpansion_recurrence s.key h4 hi, expandTemp_eq]

/-- Settles O16: KEY_LEN is the first check (`commandResult_of_keyLen_ne`), and the key expansion that fails clears
KEY_VALID (`keyLoad_error`). -/
theorem wrongKeyLengthComesFirst : Obligations.WrongKeyLengthComesFirst := by
  unfold Obligations.WrongKeyLengthComesFirst
  intro i s hx hk
  rw [exec_eq_complete, commandResult_of_keyLen_ne hx hk, commandRegisters_of_expandsKey hx, keyLoad_error hk]
  rfl

/-- Settles O17: the block of the 16 bytes is the input block. -/
theorem blockCommandsEncryptAndDecrypt : Obligations.BlockCommandsEncryptAndDecrypt := by
  unfold Obligations.BlockCommandsEncryptAndDecrypt
  intro s b hk hb
  obtain rfl : b = s.dinBlock := Block.ext_byte fun k hk => by rw [hb k hk, dinBlock_byte s hk]
  exact ⟨exec_completesWith_block .encBlock (commandResult_encBlock hk) fun _ _ => rfl,
    exec_completesWith_block .decBlock (commandResult_decBlock hk) fun _ _ => rfl⟩

/-- Settles O19: the decoder evaluated on the words, and the bytes of a mapped block (`map_byte`). -/
theorem substitutionCommandsMapEveryByte : Obligations.SubstitutionCommandsMapEveryByte := by
  unfold Obligations.SubstitutionCommandsMapEveryByte
  refine ⟨rfl, rfl, fun s => ⟨exec_completesWith_block .subBytes rfl fun k hk => ?_,
    exec_completesWith_block .invSubBytes rfl fun k hk => ?_⟩⟩
  · rw [subBytes, map_byte _ _ hk, dinBlock_byte s hk]
  · rw [invSubBytes, map_byte _ _ hk, dinBlock_byte s hk]

/-- Settles O20: the decoder evaluated on the words, and the bytes of a block with its rows rotated (`shiftRows_byte`,
`invShiftRows_byte`). -/
theorem shiftCommandsRotateTheRows : Obligations.ShiftCommandsRotateTheRows := by
  unfold Obligations.ShiftCommandsRotateTheRows
  refine ⟨rfl, rfl, fun s => ⟨exec_completesWith_block .shiftRows rfl fun k hk => ?_,
    exec_completesWith_block .invShiftRows rfl fun k hk => ?_⟩⟩
  · rw [shiftRows_byte _ hk, dinBlock_byte s (by omega)]
  · rw [invShiftRows_byte _ hk, dinBlock_byte s (by omega)]

/-- Settles O21: both operations multiply by a circulant matrix, byte by byte (`circulantBlock_dinBlock_byte`). -/
theorem mixCommandsMultiplyTheColumns : Obligations.MixCommandsMultiplyTheColumns := by
  unfold Obligations.MixCommandsMultiplyTheColumns
  refine ⟨rfl, rfl, fun s => ⟨exec_completesWith_block .mixColumns rfl fun k hk => ?_,
    exec_completesWith_block .invMixColumns rfl fun k hk => ?_⟩⟩
  · rw [mixColumns_eq_circulantBlock, circulantBlock_dinBlock_byte _ s hk]
    rfl
  · rw [invMixColumns_eq_circulantBlock, circulantBlock_dinBlock_byte _ s hk]
    rfl

/-- Settles O22: RND in 0..10 names a round key, whose bytes are those of its words (`roundKeyBytes_byte`). -/
theorem addRoundKeyXorsTheRoundKey : Obligations.AddRoundKeyXorsTheRoundKey := by
  unfold Obligations.AddRoundKeyXorsTheRoundKey
  intro s rnd hk hr
  refine exec_completesWith_block (.addRoundKey rnd) (commandResult_addRoundKey hk (Nat.lt_succ_of_le hr))
    fun k hk16 => ?_
  rw [addRoundKey, xor_byte _ _ hk16, dinBlock_byte s hk16, roundKeyBytes_byte _ _ hk16]

/-- Settles O36: the operations of each round undo each other, and the loops run in opposite orders
(`foldl_reverse_undoes`). -/
theorem invCipherInvertsCipher : Obligations.InvCipherInvertsCipher := by
  unfold Obligations.InvCipherInvertsCipher
  exact fun w b => ⟨invCipher_cipher w b, cipher_invCipher w b⟩

/-- Settles O18: the rule of each of the commands ends in NoKey (`commandResult_of_not_keyValid`). -/
theorem noKeyIsRefused : Obligations.NoKeyIsRefused := by
  unfold Obligations.NoKeyIsRefused
  intro i s hi hk
  have hfails := exec_failsWith i (commandResult_of_not_keyValid hi hk)
  rcases hi with rfl | rfl | ⟨rnd, rfl, _⟩ <;> exact hfails

/-- Settles O35: both sequences of blocks make the turns of their loop (`foldl_eq_of_turns`), that of InvCipher from 9
down. -/
theorem cipherIsItsRounds : Obligations.CipherIsItsRounds := by
  unfold Obligations.CipherIsItsRounds
  intro w b f g hf0 hf hg9 hg
  have hforward : fullRounds.foldl (cipherRound w) (f 0) = f 9 :=
    foldl_eq_of_turns _ f fun i (hi : i < 9) => by rw [hf i hi]; interval_cases i <;> rfl
  have hbackward : fullRounds.reverse.foldl (invCipherRound w) (g 9) = g 0 :=
    foldl_eq_of_turns _ (fun n => g (9 - n)) fun i (hi : i < 9) => by
      interval_cases i <;> exact hg _ (by decide)
  rw [cipher_eq, invCipher_eq, ← hf0, ← hg9, hforward, hbackward]
  exact ⟨rfl, rfl⟩

end Sys2Proof

/-! PROOF. The mode layer (43_modes.md): the counter, padding, CBC and CTR as byte sequences and as commands (O25 to
O31, O37, O38). -/

namespace Sys2Proof.Machine

open Sys2Proof.Stated

variable {s : State}

/-! ## The counter (R243, R248) -/

/-- The counter that encrypts chunk `j`, computed on its own (R248). -/
def counterAt (nonce : Block) (j : Nat) : Block := bytes128 (int128 nonce + BitVec.ofNat 128 j)

@[simp] theorem counterAt_zero (nonce : Block) : counterAt nonce 0 = nonce := by simp [counterAt]

theorem int128_inc128 (c : Block) : int128 (inc128 c) = int128 c + 1 := int128_bytes128 _

/-- Counting up once and then `j` times is counting up `j + 1` times. -/
theorem counterAt_inc128 (nonce : Block) (j : Nat) : counterAt (inc128 nonce) j = counterAt nonce (j + 1) := by
  rw [counterAt, counterAt, int128_inc128, BitVec.add_assoc, Nat.add_comm j 1, BitVec.ofNat_add]
  rfl

/-- The counter of a chunk is the block of its number. -/
theorem eq_counterAt {nonce c : Block} {j : Nat} (h : (int128 c).toNat = ((int128 nonce).toNat + j) % 2 ^ 128) :
    c = counterAt nonce j := by
  have hc : int128 c = int128 nonce + BitVec.ofNat 128 j := BitVec.eq_of_toNat_eq (by simp [h])
  rw [counterAt, ← hc, bytes128_int128]

/-! ## The message in DIN -/

theorem dinMsg_getD (s : State) {n k : Nat} (hk : k < n) : (s.dinMsg n).getD k 0 = s.dinByte k := by
  simp [State.dinMsg, hk]

/-! ## Padding (R240 to R242) -/

theorem pad_getD (m : List Byte) {k : Nat} (hk : k < m.length + padLength m.length) :
    (pad m).getD k 0 = if k < m.length then m.getD k 0 else BitVec.ofNat 8 (padLength m.length) := by
  split
  · next h => exact List.getD_append _ _ _ _ h
  · next h => rw [pad, List.getD_append_right _ _ _ _ (by omega), List.getD_replicate _ (by omega)]

/-- The padded message of DIN, byte by byte. -/
theorem pad_dinMsg_getD (s : State) {n k : Nat} (hk : k < n + padLength n) :
    (pad (s.dinMsg n)).getD k 0 = paddedByte s n k := by
  rw [pad_getD _ (by simpa using hk), dinMsg_length, paddedByte]
  split
  · next h => exact dinMsg_getD s h
  · rfl

theorem padLength_byte_toNat (n : Nat) : (BitVec.ofNat 8 (padLength n)).toNat = padLength n := by
  have := padLength_bounds n
  rw [BitVec.toNat_ofNat]
  omega

theorem paddingUniform_iff (m : List Byte) (p : Byte) :
    paddingUniform m p = true ↔ ∀ k, m.length - p.toNat ≤ k → k < m.length → m.getD k 0 = p := by
  rw [paddingUniform, List.all_eq_true, List.forall_mem_iff_getElem]
  constructor
  · intro h k hk hlt
    have hbyte := h (k - (m.length - p.toNat)) (by rw [List.length_drop]; omega)
    rw [List.getElem_drop, beq_iff_eq] at hbyte
    rw [List.getD_eq_getElem _ _ hlt, ← hbyte]
    congr 1
    omega
  · intro h k hk
    rw [List.length_drop] at hk
    rw [List.getElem_drop, beq_iff_eq, ← List.getD_eq_getElem _ 0]
    exact h _ (by omega) (by omega)

/-- Only the bytes of the sequence count. -/
theorem paddingValid_congr {m m' : Nat → Byte} {n : Nat} (h : ∀ k < n, m k = m' k) :
    PaddingValid m n ↔ PaddingValid m' n := by
  unfold PaddingValid
  refine and_congr_right fun hn => ?_
  rw [h (n - 1) (by omega)]
  refine and_congr_right fun _ => and_congr_right fun _ => and_congr_right fun _ =>
    forall_congr' fun k => imp_congr_right fun _ => forall_congr' fun hk => ?_
  rw [h k hk]

/-- The checks of Unpad, on a sequence with a last byte. -/
theorem unpad_of_ne_nil {m : List Byte} (hm : 0 < m.length) :
    unpad m =
      if m.getD (m.length - 1) 0 = 0 ∨ 16 < (m.getD (m.length - 1) 0).toNat then .error .invalidPadding
      else if m.length < (m.getD (m.length - 1) 0).toNat then .error .invalidPadding
      else if paddingUniform m (m.getD (m.length - 1) 0) then
        .ok (m.take (m.length - (m.getD (m.length - 1) 0).toNat))
      else .error .invalidPadding := by
  have hlast : m.getLast? = some (m.getD (m.length - 1) 0) := by
    rw [List.getLast?_eq_getElem?, List.getD_eq_getElem _ _ (by omega), List.getElem?_eq_getElem]
  rw [unpad, hlast]

theorem unpad_of_paddingValid {m : List Byte} (h : PaddingValid (fun k => m.getD k 0) m.length) :
    unpad m = .ok (m.take (m.length - (m.getD (m.length - 1) 0).toNat)) := by
  obtain ⟨hm, hzero, h16, hlen, huniform⟩ := h
  rw [unpad_of_ne_nil hm, if_neg (not_or.mpr ⟨hzero, Nat.not_lt.mpr h16⟩), if_neg (Nat.not_lt.mpr hlen),
    if_pos ((paddingUniform_iff _ _).mpr huniform)]

theorem unpad_of_not_paddingValid {m : List Byte} (h : ¬ PaddingValid (fun k => m.getD k 0) m.length) :
    unpad m = .error .invalidPadding := by
  rcases Nat.eq_zero_or_pos m.length with hm | hm
  · rw [List.length_eq_zero_iff.mp hm]
    rfl
  rw [unpad_of_ne_nil hm]
  split_ifs with hrange hlen huniform
  · rfl
  · rfl
  · rw [not_or] at hrange
    exact absurd ⟨hm, hrange.1, Nat.not_lt.mp hrange.2, Nat.not_lt.mp hlen, (paddingUniform_iff _ _).mp huniform⟩ h
  · rfl

theorem pad_getD_last (m : List Byte) :
    (pad m).getD ((pad m).length - 1) 0 = BitVec.ofNat 8 (padLength m.length) := by
  have := padLength_bounds m.length
  rw [pad_length, pad_getD m (by omega), if_neg (by omega)]

theorem pad_paddingValid (m : List Byte) : PaddingValid (fun k => (pad m).getD k 0) (pad m).length := by
  obtain ⟨hlow, hhigh⟩ := padLength_bounds m.length
  have hp := padLength_byte_toNat m.length
  unfold PaddingValid
  simp only [pad_getD_last, hp]
  rw [pad_length]
  refine ⟨by omega, fun hzero => ?_, hhigh, by omega, fun k hk hlt => ?_⟩
  · exact Nat.one_le_iff_ne_zero.mp hlow (hp.symm.trans (congrArg BitVec.toNat hzero))
  · rw [pad_getD m hlt, if_neg (by omega)]

theorem unpad_pad (m : List Byte) : unpad (pad m) = .ok m := by
  rw [unpad_of_paddingValid (pad_paddingValid m), pad_getD_last, padLength_byte_toNat, pad_length,
    Nat.add_sub_cancel, pad, List.take_left]

/-! ## The blocks of a byte sequence -/

theorem getD_drop (l : List Byte) (n k : Nat) : (l.drop n).getD k 0 = l.getD (n + k) 0 := by
  simp [List.getD_eq_getElem?_getD]

theorem getD_take (l : List Byte) {n k : Nat} (hk : k < n) : (l.take n).getD k 0 = l.getD k 0 := by
  simp [List.getD_eq_getElem?_getD, hk]

/-- Block `j` of a byte sequence. -/
def blockAt (l : List Byte) (j : Nat) : Block := Block.ofBytes (l.drop (16 * j))

/-- The block before block `j` of a byte sequence, `prev` standing for block -1. -/
def blockBefore (prev : Block) (l : List Byte) : Nat → Block
  | 0 => prev
  | j + 1 => blockAt l j

theorem ofBytes_byte (l : List Byte) {k : Nat} (hk : k < 16) : (Block.ofBytes l).byte k = l.getD k 0 := by
  interval_cases k <;> rfl

theorem blockAt_byte (l : List Byte) (j : Nat) {k : Nat} (hk : k < 16) :
    (blockAt l j).byte k = l.getD (16 * j + k) 0 := by
  rw [blockAt, ofBytes_byte _ hk, getD_drop]

theorem blockBefore_byte (prev : Block) (l : List Byte) (j : Nat) {k : Nat} (hk : k < 16) :
    (blockBefore prev l j).byte k = if j = 0 then prev.byte k else l.getD (16 * (j - 1) + k) 0 := by
  cases j with
  | zero => rfl
  | succ j => exact blockAt_byte l j hk

theorem ofBytes_bytes_append (b : Block) (l : List Byte) : Block.ofBytes (b.bytes ++ l) = b := rfl

theorem drop_bytes_append (b : Block) (l : List Byte) : (b.bytes ++ l).drop 16 = l := rfl

/-- Putting a block before a sequence moves its blocks back by one place. -/
theorem blockAt_bytes_append (b : Block) (l : List Byte) (j : Nat) :
    blockAt (b.bytes ++ l) j = blockBefore b l j := by
  cases j <;> rfl

theorem blockAt_drop (l : List Byte) (j : Nat) : blockAt (l.drop 16) j = blockAt l (j + 1) := by
  rw [blockAt, blockAt, List.drop_drop, Nat.mul_succ, Nat.add_comm]

theorem blockBefore_drop (l : List Byte) (j : Nat) :
    blockBefore (Block.ofBytes l) (l.drop 16) j = blockAt l j := by
  cases j with
  | zero => rfl
  | succ j => exact blockAt_drop l j

theorem ofBytes_bytes_append_drop {l : List Byte} (h : 16 ≤ l.length) :
    (Block.ofBytes l).bytes ++ l.drop 16 = l := by
  have hfirst : (Block.ofBytes l).bytes = l.take 16 := by
    refine List.ext_getElem (by simpa using h) fun k hk _ => ?_
    rw [List.getElem_take, ← List.getD_eq_getElem _ 0, ← List.getD_eq_getElem _ 0]
    exact ofBytes_byte l hk
  rw [hfirst, List.take_append_drop]

theorem xor_xor_cancel (b d : Block) : (b.xor d).xor d = b :=
  Block.ext_byte fun k hk => by
    rw [xor_byte _ _ hk, xor_byte _ _ hk, BitVec.xor_assoc, BitVec.xor_self, BitVec.xor_zero]

/-! ## CBC (R244 to R246) -/

/-- Each block of the output is the cipher of its input block and the output block before. -/
theorem blockAt_cbcEncBlocks (w : Schedule) {n j : Nat} (hj : j < n) (m : List Byte) (prev : Block) :
    blockAt (cbcEncBlocks w n m prev) j =
      cipher w ((blockAt m j).xor (blockBefore prev (cbcEncBlocks w n m prev) j)) := by
  induction n generalizing j m prev with
  | zero => omega
  | succ n ih =>
    rw [cbcEncBlocks, blockAt_bytes_append]
    cases j with
    | zero => rfl
    | succ j =>
      rw [blockBefore, ih (by omega), blockAt_drop, blockBefore, blockAt_bytes_append]

/-- The padded message is made of whole blocks (R240). -/
theorem pad_length_eq_mul (m : List Byte) : (pad m).length = 16 * ((pad m).length / 16) := by
  rw [pad_length, padLength]
  omega

theorem blockAt_cbcEnc (w : Schedule) (p : List Byte) (iv : Block) {j : Nat} (hj : 16 * j < (pad p).length) :
    blockAt (cbcEnc w p iv) j = cipher w ((blockAt (pad p) j).xor (blockBefore iv (cbcEnc w p iv) j)) :=
  blockAt_cbcEncBlocks w (by have := pad_length_eq_mul p; omega) (pad p) iv

/-- Each block of the output is the inverse cipher of its input block, and the input block before. -/
theorem blockAt_cbcDecBlocks (w : Schedule) {n j : Nat} (hj : j < n) (c : List Byte) (prev : Block) :
    blockAt (cbcDecBlocks w n c prev) j = (invCipher w (blockAt c j)).xor (blockBefore prev c j) := by
  induction n generalizing j c prev with
  | zero => omega
  | succ n ih =>
    rw [cbcDecBlocks, blockAt_bytes_append]
    cases j with
    | zero => rfl
    | succ j => rw [blockBefore, ih (by omega), blockAt_drop, blockBefore_drop, blockBefore]

theorem cbcDecRaw_length (w : Schedule) {c : List Byte} (iv : Block) (hc : c.length % 16 = 0) :
    (cbcDecRaw w c iv).length = c.length := by
  rw [cbcDecRaw, cbcDecBlocks_length]; omega

/-- Byte `k` of block `j` of the raw plaintext. -/
theorem cbcDecRaw_getD (w : Schedule) {c : List Byte} (iv : Block) (hc : c.length % 16 = 0) {j k : Nat}
    (hj : 16 * j < c.length) (hk : k < 16) :
    (cbcDecRaw w c iv).getD (16 * j + k) 0 =
      (invCipher w (blockAt c j)).byte k ^^^ if j = 0 then iv.byte k else c.getD (16 * (j - 1) + k) 0 := by
  rw [← blockAt_byte _ _ hk, cbcDecRaw, blockAt_cbcDecBlocks w (by omega) c iv, xor_byte _ _ hk,
    blockBefore_byte _ _ _ hk]

theorem cbcDecBlocks_cbcEncBlocks (w : Schedule) {n : Nat} {m : List Byte} (hm : m.length = 16 * n) (prev : Block) :
    cbcDecBlocks w n (cbcEncBlocks w n m prev) prev = m := by
  induction n generalizing m prev with
  | zero => exact (List.length_eq_zero_iff.mp hm).symm
  | succ n ih =>
    have hrest : (m.drop 16).length = 16 * n := by rw [List.length_drop]; omega
    rw [cbcEncBlocks, cbcDecBlocks, ofBytes_bytes_append, drop_bytes_append, ih hrest, invCipher_cipher, xor_xor_cancel,
      ofBytes_bytes_append_drop (by omega)]

theorem cbcDec_cbcEnc (w : Schedule) (p : List Byte) (iv : Block) : cbcDec w (cbcEnc w p iv) iv = .ok p := by
  have hblocks : (cbcEnc w p iv).length / 16 = (pad p).length / 16 := by rw [cbcEnc_length, pad_length]
  rw [cbcDec, cbcDecRaw, hblocks, cbcEnc, cbcDecBlocks_cbcEncBlocks w (pad_length_eq_mul p), unpad_pad]

/-! ## Counter mode (R247, R248) -/

theorem xorChunk_length (chunk : List Byte) (ks : Block) : (xorChunk chunk ks).length = min chunk.length 16 := by
  rw [xorChunk, List.length_zipWith, Block.bytes_length]

theorem xorChunk_getD (chunk : List Byte) (ks : Block) {k : Nat} (hk : k < chunk.length) (h16 : k < 16) :
    (xorChunk chunk ks).getD k 0 = chunk.getD k 0 ^^^ ks.byte k := by
  have hlen : k < (xorChunk chunk ks).length := by rw [xorChunk_length]; omega
  rw [Block.byte, List.getD_eq_getElem _ _ hk, List.getD_eq_getElem _ _ hlen, List.getD_eq_getElem ks.bytes _ h16]
  exact List.getElem_zipWith

/-- Each byte against the keystream of its chunk's counter, which needs no chunk before. -/
theorem ctrChunks_getD (w : Schedule) {n k : Nat} (m : List Byte) (ctr : Block) (hk : k < m.length)
    (hn : k < 16 * n) :
    (ctrChunks w n m ctr).getD k 0 = m.getD k 0 ^^^ (cipher w (counterAt ctr (k / 16))).byte (k % 16) := by
  induction n generalizing k m ctr with
  | zero => omega
  | succ n ih =>
    have hlen : (xorChunk (m.take 16) (cipher w ctr)).length = min 16 m.length := by
      rw [xorChunk_length, List.length_take]; omega
    rw [ctrChunks]
    by_cases h16 : k < 16
    · rw [List.getD_append _ _ _ _ (by omega), xorChunk_getD _ _ (by rw [List.length_take]; omega) h16,
        getD_take _ h16, Nat.div_eq_of_lt h16, Nat.mod_eq_of_lt h16, counterAt_zero]
    · obtain ⟨i, rfl⟩ := Nat.exists_eq_add_of_le (Nat.not_lt.mp h16)
      rw [List.getD_append_right _ _ _ _ (by omega), hlen, Nat.min_eq_left (by omega), Nat.add_sub_cancel_left,
        ih _ _ (by rw [List.length_drop]; omega) (by omega), getD_drop, counterAt_inc128,
        Nat.add_div_left _ (by decide), Nat.add_mod_left]

theorem ctrXcrypt_getD (w : Schedule) (m : List Byte) (nonce : Block) {k : Nat} (hk : k < m.length) :
    (ctrXcrypt w m nonce).getD k 0 = m.getD k 0 ^^^ (cipher w (counterAt nonce (k / 16))).byte (k % 16) :=
  ctrChunks_getD w m nonce hk (by omega)

theorem ctrXcrypt_ctrXcrypt (w : Schedule) (p : List Byte) (nonce : Block) :
    ctrXcrypt w (ctrXcrypt w p nonce) nonce = p := by
  have hlen := ctrXcrypt_length w p nonce
  refine List.ext_getElem (by rw [ctrXcrypt_length, hlen]) fun k hk hkp => ?_
  rw [← List.getD_eq_getElem _ 0, ← List.getD_eq_getElem _ 0, ctrXcrypt_getD _ _ _ (by rwa [hlen]),
    ctrXcrypt_getD _ _ _ hkp, BitVec.xor_assoc, BitVec.xor_self, BitVec.xor_zero]

/-! ## What the mode commands compute -/

theorem keyLoad_checkFits_ok {n : Nat} (h : n ≤ s.config.maxMsgBytes) : s.keyLoad.checkFits n = .ok () :=
  checkFits_ok (by rwa [keyLoad_config])

/-- The bytes of an output as those of its sequence. -/
theorem exec_completesWith_getD (i : Instr) {bs : List Byte} {out : Nat → Byte} (h : commandResult i s = .ok bs)
    (hout : ∀ k < bs.length, bs.getD k 0 = out k) :
    ∃ t, exec i s = .next t ∧ CompletesWith (commandRegisters i s) t bs.length out :=
  exec_completesWith i h fun k hk => by rw [← hout k hk, List.getD_eq_getElem]

theorem commandRegisters_keyLoaded {i : Instr} (hx : expandsKey i = true) (hk : s.keyLen = 16) :
    commandRegisters i s = keyLoaded s :=
  (commandRegisters_of_expandsKey hx s).trans (keyLoad_ok hk)

theorem commandResult_pad (hfits : s.len.toNat + padLength s.len.toNat ≤ s.config.maxMsgBytes) :
    commandResult .pad s = .ok (pad (s.dinMsg s.len.toNat)) := by
  rw [commandResult, checkFits_ok hfits]; rfl

theorem commandResult_unpad (hfits : s.len.toNat ≤ s.config.maxMsgBytes) :
    commandResult .unpad s = unpad (s.dinMsg s.len.toNat) := by
  rw [commandResult, checkFits_ok hfits]; rfl

theorem commandResult_cbcEnc (hk : s.keyLen = 16)
    (hfits : s.len.toNat + padLength s.len.toNat ≤ s.config.maxMsgBytes) :
    commandResult .cbcEnc s = .ok (cbcEnc (keyExpansion s.key) (s.dinMsg s.len.toNat) s.iv) := by
  rw [commandResult, checkKeyLen_ok hk, keyLoad_checkFits_ok hfits, keyLoad_ok hk]
  rfl

/-- The check of whole blocks decides after the key's and the capacity's (R251). -/
theorem commandResult_cbcDec (hk : s.keyLen = 16) (hfits : s.len.toNat ≤ s.config.maxMsgBytes) :
    commandResult .cbcDec s =
      (do checkBlockLength s.len.toNat; cbcDec (keyExpansion s.key) (s.dinMsg s.len.toNat) s.iv) := by
  rw [commandResult, checkKeyLen_ok hk, keyLoad_checkFits_ok hfits, keyLoad_ok hk]
  rfl

theorem commandResult_ctr {i : Instr} (hi : i = .ctrEnc ∨ i = .ctrDec) (hk : s.keyLen = 16)
    (hfits : s.len.toNat ≤ s.config.maxMsgBytes) :
    commandResult i s = .ok (ctrXcrypt (keyExpansion s.key) (s.dinMsg s.len.toNat) s.iv) := by
  rcases hi with rfl | rfl
  all_goals
    rw [commandResult, checkKeyLen_ok hk, keyLoad_checkFits_ok hfits, keyLoad_ok hk]
    rfl

/-- A command that ends in the Unpad of a sequence completes with the sequence less its padding where that is valid,
and fails with InvalidPadding where it is not. -/
theorem exec_of_commandResult_unpad {i : Instr} {m : List Byte} {raw : Nat → Byte}
    (h : commandResult i s = unpad m) (hraw : ∀ k < m.length, m.getD k 0 = raw k) :
    (PaddingValid raw m.length → ∃ t, exec i s = .next t ∧
      CompletesWith (commandRegisters i s) t (m.length - (raw (m.length - 1)).toNat) raw) ∧
    (¬ PaddingValid raw m.length → ∃ t, exec i s = .next t ∧ FailsWith (commandRegisters i s) t 3) := by
  rw [← paddingValid_congr hraw]
  constructor
  · intro hvalid
    have ⟨hpos, _⟩ := hvalid
    have hlen := List.length_take_of_le (Nat.sub_le m.length (raw (m.length - 1)).toNat)
    rw [unpad_of_paddingValid hvalid, hraw _ (by omega)] at h
    rw [← hlen]
    refine exec_completesWith_getD i h fun k hk => ?_
    rw [hlen] at hk
    rw [getD_take _ hk, hraw k (by omega)]
  · intro hinvalid
    exact exec_failsWith i (h.trans (unpad_of_not_paddingValid hinvalid))

end Sys2Proof.Machine

/-! ## The obligations about the modes -/

namespace Sys2Proof

open Machine Stated

/-- Settles O25: CTR_INC assigns IV and completes with no output; the number of the new IV is one more
(`int128_inc128`). -/
theorem ctrIncCountsAllSixteenBytes : Obligations.CtrIncCountsAllSixteenBytes := by
  unfold Obligations.CtrIncCountsAllSixteenBytes
  refine ⟨rfl, fun s => ⟨_, exec_eq_complete .ctrInc s, rfl, ?_⟩⟩
  rw [complete_iv, commandRegisters, int128_inc128, BitVec.toNat_add]
  rfl

/-- Settles O26: the bytes of the padded message (`pad_dinMsg_getD`). -/
theorem padAppendsItsLength : Obligations.PadAppendsItsLength := by
  unfold Obligations.PadAppendsItsLength
  intro s hfits
  have hlen : (pad (s.dinMsg s.len.toNat)).length = s.len.toNat + padCount s.len.toNat := by
    rw [pad_length, dinMsg_length]; rfl
  rw [← hlen]
  exact exec_completesWith_getD .pad (commandResult_pad hfits) fun k hk => pad_dinMsg_getD s (hk.trans_eq hlen)

/-- Settles O27: UNPAD ends in the Unpad of the message (`exec_of_commandResult_unpad`). -/
theorem unpadStripsOnlyValidPadding : Obligations.UnpadStripsOnlyValidPadding := by
  unfold Obligations.UnpadStripsOnlyValidPadding
  intro s hfits
  have h := exec_of_commandResult_unpad (raw := s.dinByte) (commandResult_unpad hfits) fun k hk =>
    dinMsg_getD s (by rwa [dinMsg_length] at hk)
  rwa [dinMsg_length] at h

/-- Settles O28: the blocks of the output chain (`blockAt_cbcEnc`), and `x` is the input of the cipher. -/
theorem cbcEncChainsTheBlocks : Obligations.CbcEncChainsTheBlocks := by
  unfold Obligations.CbcEncChainsTheBlocks
  intro s hk hfits
  have hpad : padCount s.len.toNat = padLength s.len.toNat := rfl
  rw [hpad] at hfits ⊢
  have hlen : (pad (s.dinMsg s.len.toNat)).length = s.len.toNat + padLength s.len.toNat := by
    rw [pad_length, dinMsg_length]
  obtain ⟨t, ht, hout⟩ := exec_completesWith_getD .cbcEnc (commandResult_cbcEnc hk hfits) fun _ _ => rfl
  rw [cbcEnc_length, dinMsg_length, commandRegisters_keyLoaded rfl hk] at hout
  refine ⟨t, _, ht, hout, fun j x hj hx k hk16 => ?_⟩
  have hinput : x = (blockAt (pad (s.dinMsg s.len.toNat)) j).xor
      (blockBefore s.iv (cbcEnc (keyExpansion s.key) (s.dinMsg s.len.toNat) s.iv) j) :=
    Block.ext_byte fun k hk16 => by
      have hwhole := pad_length_eq_mul (s.dinMsg s.len.toNat)
      rw [hx k hk16, xor_byte _ _ hk16, blockAt_byte _ _ hk16, blockBefore_byte _ _ _ hk16,
        pad_dinMsg_getD s (by omega)]
  rw [← blockAt_byte _ _ hk16, blockAt_cbcEnc _ _ _ (hj.trans_eq hlen.symm), ← hinput]

/-- Settles O29: CBC_DEC ends in the Unpad of the raw plaintext (`exec_of_commandResult_unpad`), whose blocks
`cbcDecRaw_getD` gives byte by byte. -/
theorem cbcDecUnpadsTheRawPlaintext : Obligations.CbcDecUnpadsTheRawPlaintext := by
  unfold Obligations.CbcDecUnpadsTheRawPlaintext
  intro s raw hk hfits hpos hmul hraw
  have hmul' : (s.dinMsg s.len.toNat).length % 16 = 0 := by rwa [dinMsg_length]
  have hres : commandResult .cbcDec s = unpad (cbcDecRaw (keyExpansion s.key) (s.dinMsg s.len.toNat) s.iv) := by
    rw [commandResult_cbcDec hk hfits, checkBlockLength_ok hpos hmul]
    rfl
  have hbytes : ∀ k < s.len.toNat,
      (cbcDecRaw (keyExpansion s.key) (s.dinMsg s.len.toNat) s.iv).getD k 0 = raw k := fun k hlt => by
    have hj : 16 * (k / 16) < s.len.toNat := by omega
    have hr : k % 16 < 16 := Nat.mod_lt k (by decide)
    rw [← Nat.div_add_mod k 16, cbcDecRaw_getD _ _ hmul' (by rwa [dinMsg_length]) hr,
      hraw (k / 16) (blockAt (s.dinMsg s.len.toNat) (k / 16)) hj (fun i hi => ?_) _ hr]
    · split
      · rfl
      · rw [dinMsg_getD s (by omega)]
    · rw [blockAt_byte _ _ hi, dinMsg_getD s (by omega)]
  have h := exec_of_commandResult_unpad hres (raw := raw) (by rwa [cbcDecRaw_length _ _ hmul', dinMsg_length])
  rwa [cbcDecRaw_length _ _ hmul', dinMsg_length, commandRegisters_keyLoaded rfl hk] at h

/-- Settles O30: the check of whole blocks fails after the key expansion (`exec_failsWith_keyLoaded`). -/
theorem cbcDecNeedsWholeBlocks : Obligations.CbcDecNeedsWholeBlocks := by
  unfold Obligations.CbcDecNeedsWholeBlocks
  intro s hk hfits hpartial
  refine exec_failsWith_keyLoaded (e := .invalidLength) rfl hk ?_
  rw [commandResult_cbcDec hk hfits, checkBlockLength_error hpartial]
  rfl

/-- Settles O31: the bytes of the output (`ctrXcrypt_getD`); the counter's number fixes the counter
(`eq_counterAt`). -/
theorem ctrCommandsXorTheKeystream : Obligations.CtrCommandsXorTheKeystream := by
  unfold Obligations.CtrCommandsXorTheKeystream
  intro i s hi hk hfits
  have hx : expandsKey i = true := by rcases hi with rfl | rfl <;> rfl
  obtain ⟨t, ht, hout⟩ := exec_completesWith_getD i (commandResult_ctr hi hk hfits) fun _ _ => rfl
  rw [ctrXcrypt_length, dinMsg_length, commandRegisters_keyLoaded hx hk] at hout
  refine ⟨t, _, ht, hout, fun k c hlt hc => ?_⟩
  rw [eq_counterAt hc, ctrXcrypt_getD _ _ _ (by rwa [dinMsg_length]), dinMsg_getD s hlt]

/-- Settles O37: a padded message is valid (`unpad_pad`), and Unpad fails on the invalid sequences only
(`unpad_of_paddingValid`, `unpad_of_not_paddingValid`). -/
theorem unpadUndoesPadAndFailsExactly : Obligations.UnpadUndoesPadAndFailsExactly := by
  unfold Obligations.UnpadUndoesPadAndFailsExactly
  refine ⟨unpad_pad, fun m => ⟨fun ⟨e, he⟩ hvalid => ?_, fun h => ⟨_, unpad_of_not_paddingValid h⟩⟩,
    fun m out h => ?_⟩
  · cases he.symm.trans (unpad_of_paddingValid hvalid)
  · obtain ⟨p, hp1, hp16, hpm, rfl⟩ := unpad_ok h
    rw [List.length_take]
    omega

/-- Settles O38: blocks decrypt to the padded message (`cbcDecBlocks_cbcEncBlocks`), which Unpad gives back; in counter
mode the same keystream is added twice (`ctrXcrypt_getD`). -/
theorem modesAreTheirOwnRoundTrips : Obligations.ModesAreTheirOwnRoundTrips := by
  unfold Obligations.ModesAreTheirOwnRoundTrips
  exact fun w p iv => ⟨cbcDec_cbcEnc w p iv, ctrXcrypt_ctrXcrypt w p iv⟩

end Sys2Proof

/-! PROOF. Precise errors (60_exceptions.md R293): what a failed command leaves of the state it began in (O13). -/

namespace Sys2Proof.Machine

open Sys2Proof.Stated

/-- Without a key expansion only CTR_INC and GFMUL assign a register, and neither has an error: a command that ends in
one has assigned nothing. -/
theorem commandRegisters_of_error {i : Instr} {s : State} {e : CmdError} (hx : expandsKey i = false)
    (h : commandResult i s = .error e) : commandRegisters i s = s := by
  cases i with
  | setkey | cbcEnc | cbcDec | ctrEnc | ctrDec => cases hx
  | ctrInc | gfmul => cases h
  | _ => rfl

/-- A command that ends with ERR not 0 ended in an error, whose code is ERR, and only its assigned registers and the
failed completion are seen after it (40_dispatch.md R136). -/
theorem failsWith_of_exec_err {i : Instr} {s t : State} (ht : exec i s = .next t) (herr : t.err ≠ 0) :
    ∃ e, commandResult i s = .error e ∧ t.err = e.code ∧ FailsWith (commandRegisters i s) t e.code := by
  cases (exec_eq_complete i s).symm.trans ht
  cases hres : commandResult i s with
  | ok out =>
    rw [hres] at herr
    exact absurd rfl herr
  | error e => exact ⟨e, rfl, rfl, rfl⟩

end Sys2Proof.Machine

namespace Sys2Proof

open Machine Stated

/-- Settles O13: a failed command keeps its assigned registers (`failsWith_of_exec_err`). They are none without a key
expansion (`commandRegisters_of_error`); with one they are what `KeyLoad()` wrote, whose wrong KEY_LEN is also the error
that ends the command (`commandResult_of_keyLen_ne`). -/
theorem failedCommandsArePrecise : Obligations.FailedCommandsArePrecise := by
  unfold Obligations.FailedCommandsArePrecise
  intro i s t ht herr
  obtain ⟨e, hres, hcode, hfail⟩ := failsWith_of_exec_err ht herr
  refine ⟨fun hx => ?_, fun hx hk => ?_, fun hx hk => ?_⟩
  · rwa [commandRegisters_of_error hx hres, ← hcode] at hfail
  · rwa [commandRegisters_keyLoaded hx hk, ← hcode] at hfail
  · cases hres.symm.trans (commandResult_of_keyLen_ne hx hk)
    rwa [commandRegisters_of_expandsKey hx, keyLoad_error hk] at hfail

end Sys2Proof

/-! PROOF. Reset and the hazards of a running command (70_reset_and_hazards.md): the reads and writes while BUSY, what a
completion writes of DOUT, and the state after reset (O12, O39, O49, O57 to O59). -/

namespace Sys2Proof.Machine

open Sys2Proof.Stated

variable {s : State}

/-! ## The bytes of DOUT a command writes (R339) -/

@[simp] theorem commandRegisters_dout (i : Instr) (s : State) : (commandRegisters i s).dout = s.dout := by
  rw [commandRegisters_frame]

/-- From `s` to `t` the output bytes, and no others, are written in DOUT; after an error there are none (R339). -/
def WritesOnlyOutput (s t : State) : Prop :=
  (∀ k, t.outLen.toNat ≤ k → t.dout.read k = s.dout.read k) ∧ (∀ k < t.outLen.toNat, t.dout.read k ≠ none) ∧
  (t.err ≠ 0 → t.outLen = 0 ∧ t.dout = s.dout)

/-- OUT_LEN is the length of an output that fits DOUT, so its bounds are those of the write. -/
theorem finish_writesOnlyOutput (hc : s.config.Legal) {out : List Byte} (hout : out.length ≤ s.config.maxMsgBytes) :
    WritesOnlyOutput s (s.finish out) := by
  obtain ⟨hinside, houtside, -⟩ := finish_completesWith s (bs := out) (out := (out.getD · 0))
    fun _ hk => (List.getD_eq_getElem _ _ hk).symm
  rw [WritesOnlyOutput, finish_outLen_toNat hc hout]
  exact ⟨houtside, fun k hk => by rw [hinside k hk]; exact Option.some_ne_none _, fun herr => absurd rfl herr⟩

theorem raiseError_writesOnlyOutput (s : State) (e : CmdError) : WritesOnlyOutput s (s.raiseError e) :=
  ⟨fun _ _ => rfl, nofun, fun _ => ⟨rfl, rfl⟩⟩

theorem complete_writesOnlyOutput (hc : s.config.Legal) {r : Except CmdError (List Byte)}
    (hr : ∀ out, r = .ok out → out.length ≤ s.config.maxMsgBytes) : WritesOnlyOutput s (s.complete r) := by
  cases r with
  | ok out => exact finish_writesOnlyOutput hc (hr out rfl)
  | error e => exact raiseError_writesOnlyOutput s e

/-- The registers a command assigns before its completion are not DOUT, and its output fits DOUT. -/
theorem exec_writesOnlyOutput {i : Instr} {t : State} (hc : s.config.Legal) (ht : exec i s = .next t) :
    WritesOnlyOutput s t := by
  cases (exec_eq_complete i s).symm.trans ht
  have ⟨_, hmin, _⟩ := hc
  have h : WritesOnlyOutput (commandRegisters i s) ((commandRegisters i s).complete (commandResult i s)) :=
    complete_writesOnlyOutput (by rwa [commandRegisters_config]) fun out hout => by
      rw [commandRegisters_config]
      exact commandResult_length hout hmin
  rwa [WritesOnlyOutput, commandRegisters_dout] at h

/-! ## The registers that read the same while BUSY (R334) -/

theorem busReadValue_of_readableWhileBusy {off : Offset} (h : (target s.config off).readableWhileBusy = true) :
    s.busReadValue off = s.regValue (target s.config off) := by
  unfold State.busReadValue
  cases s.phase with
  | idle => rfl
  | busy => exact if_pos h

/-- A host read of ID, CAPS, CTRL or STATUS gives the register's value in either phase. -/
theorem step_of_readNext_readableWhileBusy {off : Nat} {v : Word} (h : ReadNext s off)
    (hread : (targetAt s.config.maxMsgBytes (off / 4 * 4)).readableWhileBusy = true)
    (hv : s.advance.regValue (targetAt s.config.maxMsgBytes (off / 4 * 4)) = v) :
    step s = .next { eventTaken s with readData := v } := by
  have htarget : target s.advance.config (BitVec.ofNat 18 off) = targetAt s.config.maxMsgBytes (off / 4 * 4) :=
    target_ofNat _ h.1
  refine step_of_readNext h ?_
  rw [busReadValue_of_readableWhileBusy (by rwa [htarget]), htarget, hv]

/-- With DONE and ERR 0, only KEY_VALID and BUSY_WR are left to see beside BUSY (10_state.md R27). -/
theorem statusWord_of_busy (hp : s.phase = .busy) (hdone : s.done = false) (herr : s.err = 0) :
    s.statusWord = 1 + (if s.keyValid then 4 else 0) + (if s.busyWr then 8 else 0) := by
  rw [State.statusWord, hp, hdone, herr]
  cases s.keyValid <;> cases s.busyWr <;> rfl

/-! ## The state after reset (R330) -/

theorem zeroBlock_eq_bytes128 : zeroBlock = bytes128 0 := by decide

theorem zeroBlock_byte : ∀ k < 16, zeroBlock.byte k = 0 := by decide

theorem reset_inv : State.reset.Inv where
  configLegal := by decide
  dinInBuffer := nil_inBuffer _
  doutInBuffer := nil_inBuffer _
  errInRange := Nat.zero_le _
  busyClear := nofun
  errorNoOutput := fun _ => rfl
  outLenFits := Nat.zero_le _
  outputWritten := nofun
  keyValidSchedule := nofun

end Sys2Proof.Machine

/-! ## The obligations about reset and the hazards -/

namespace Sys2Proof

open Machine Stated

/-- Settles O12: the registers a command assigns are not DOUT, and its completion writes only the output there
(`exec_writesOnlyOutput`). -/
theorem onlyTheOutputBytesAreWritten : Obligations.OnlyTheOutputBytesAreWritten := by
  unfold Obligations.OnlyTheOutputBytesAreWritten
  exact fun i s t hc ht => exec_writesOnlyOutput hc ht

/-- Settles O49: the four registers read the same in both phases (`step_of_readNext_readableWhileBusy`), and the
invariant has DONE and ERR 0 while BUSY. -/
theorem statusCanBePolledWhileBusy : Obligations.StatusCanBePolledWhileBusy := by
  unfold Obligations.StatusCanBePolledWhileBusy
  intro s hp hinv
  obtain ⟨hdone, herr⟩ := hinv.busyClear hp
  exact ⟨fun hr => step_of_readNext_readableWhileBusy hr rfl rfl,
    fun hr => step_of_readNext_readableWhileBusy hr rfl rfl,
    fun hr => step_of_readNext_readableWhileBusy hr rfl (ctrlWord_eq s.advance),
    fun hr => step_of_readNext_readableWhileBusy hr rfl (statusWord_of_busy (s := s.advance) hp hdone herr)⟩

/-- Settles O39: a write while BUSY is dropped before its offset selects a register (`step_of_writeNext_busy`). -/
theorem writeWhileBusyOnlySetsBusyWr : Obligations.WriteWhileBusyOnlySetsBusyWr := by
  unfold Obligations.WriteWhileBusyOnlySetsBusyWr
  exact fun s off v => step_of_writeNext_busy

/-- Settles O57: the step is the reset event (`step_of_reset`), whose zero blocks are those of the spec
(`zeroBlock_eq_bytes128`). -/
theorem resetGivesTheResetState : Obligations.ResetGivesTheResetState := by
  unfold Obligations.ResetGivesTheResetState
  intro s hreset
  rw [← zeroBlock_eq_bytes128]
  exact ⟨s.advance.resetEvent, step_of_reset hreset, rfl⟩

/-- Settles O58: each register of `State.reset` by evaluation, the bytes of KEY and IV by `zeroBlock_byte`. -/
theorem resetRegistersHoldTheirValues : Obligations.ResetRegistersHoldTheirValues := by
  unfold Obligations.ResetRegistersHoldTheirValues
  exact ⟨rfl, rfl, rfl, rfl, rfl, rfl, rfl, rfl, fun k hk => ⟨zeroBlock_byte k hk, zeroBlock_byte k hk⟩, rfl,
    fun k => ⟨read_nil k, read_nil k⟩⟩

/-- Settles O59 (`reset_inv`): the default parameters are legal, the buffers empty and every flag 0. -/
theorem invariantHoldsAtReset : Obligations.InvariantHoldsAtReset := by
  unfold Obligations.InvariantHoldsAtReset
  exact reset_inv

end Sys2Proof
